-- ==== Sys2Proof/Word.lean ====
section
/-! DEFINITION. The word and byte types and the two conversions of 00_scope.md R12. -/

namespace Sys2Proof

/-- A `u32`: register values, addresses and memory words (00_scope.md R12). -/
abbrev Word := BitVec 32

/-- A memory byte (00_scope.md R7). -/
abbrev Byte := BitVec 8

/-- `signed(v)`: the two's complement reading of a `u32` (00_scope.md R12). -/
abbrev signed (v : Word) : Int := v.toInt

/-- `u32(z)`: an integer modulo 2^32 (00_scope.md R12). -/
abbrev u32 (z : Int) : Word := BitVec.ofInt 32 z

end Sys2Proof
end

