-- ==== Sys2Proof/Config.lean ====
section
/-! DEFINITION. What is fixed for one machine (the parameters of 00_scope.md R9) and the free values, which
have no body: nothing can be proved about their values. -/

namespace Sys2Proof

/-- `DIV_CORNER_POLICY` (45_muldiv.md R171). -/
inductive DivCornerPolicy where
  | engineError
  | mipsValues
deriving DecidableEq, Repr

/-- `JR_MISALIGNED_POLICY` (41_branch_jump.md R130). -/
inductive JrMisalignedPolicy where
  | engineError
  | truncate
  | asIs
deriving DecidableEq, Repr

/-- The open parameters of 00_scope.md R9, one field each. -/
structure Config where
  /-- `INCLUDE_UNNAMED_OPS` (30_encoding.md R92). -/
  includeUnnamedOps : Bool
  /-- `DECODE_STRICT_ZERO_FIELDS` (30_encoding.md R89). -/
  decodeStrictZeroFields : Bool
  /-- `DIV_CORNER_POLICY` (45_muldiv.md R171). -/
  divCorner : DivCornerPolicy
  /-- `JR_MISALIGNED_POLICY` (41_branch_jump.md R130). -/
  jrMisaligned : JrMisalignedPolicy
  /-- `MUL_WRITES_HILO` (45_muldiv.md R168). -/
  mulWritesHiLo : Bool
  /-- `BREAK_ADVANCES_PC` (46_system.md R188). -/
  breakAdvancesPc : Bool
  /-- `READ_STRING_KEEPS_NEWLINE` (46_system.md R186). -/
  readStringKeepsNewline : Bool
deriving DecidableEq, Repr

/-- FREE VALUE. The OPEN parameter `READ_STRING_KEEPS_NEWLINE` of the machine after reset (92_eei_decisions.md
D20): the spec gives no default, so the model fixes none. DESIGN CHOICE, log 4. -/
opaque Config.openKeepsNewline : Bool

/-- FREE VALUE. The `n`-th register value the spec leaves open: `hi` and `lo` after a division by zero under
`DIV_CORNER_POLICY = mips_values` (45_muldiv.md R171). DESIGN CHOICE of form, log 9. -/
opaque Config.freeWord : Nat → Word

/-- FREE VALUE. The answer of `Env.read_int` at the `n`-th draw, `none` when the read fails (46_system.md R182,
R185). DESIGN CHOICE of form, log 8. -/
opaque Config.envInt : Nat → Option Word

/-- FREE VALUE. What the console delivers to `Env.read_string` at the `n`-th draw (46_system.md R182, R186).
DESIGN CHOICE of form, log 8. -/
opaque Config.envLine : Nat → List Byte

/-- The hardware this spec describes: every default of 00_scope.md R9, the OPEN parameter left open. -/
def Config.hardware : Config where
  includeUnnamedOps := true
  decodeStrictZeroFields := false
  divCorner := .engineError
  jrMisaligned := .engineError
  mulWritesHiLo := true
  breakAdvancesPc := true
  readStringKeepsNewline := Config.openKeepsNewline

end Sys2Proof
end

