-- ==== Sys2Proof/Syntax.lean ====
section
/-! DEFINITION. The instructions: one constructor per row of opcode_table.json, with exactly the operands of
30_encoding.md R90, R91, R93 (R100). `Unknown(word)` is no row; it is the other result of the decoder. -/

namespace Sys2Proof

/-- A register index, 0 to 31: a 5-bit field of the instruction word (10_state.md R21). -/
abbrev RegIdx := BitVec 5

/-- The 16-bit immediate or offset field, not yet extended (30_encoding.md R83, R100). -/
abbrev Imm16 := BitVec 16

/-- The 60 instructions of 30_encoding.md R92. Operands stand in the assembler's order (R104): destination
first; a load or store is `rt`, base `rs`, offset field. -/
inductive Instr where
  -- 40_arith_overflow.md
  | add (rd rs rt : RegIdx)
  | addi (rt rs : RegIdx) (imm : Imm16)
  | sub (rd rs rt : RegIdx)
  | addu (rd rs rt : RegIdx)
  | addiu (rt rs : RegIdx) (imm : Imm16)
  | subu (rd rs rt : RegIdx)
  -- 41_branch_jump.md
  | beq (rs rt : RegIdx) (imm : Imm16)
  | bne (rs rt : RegIdx) (imm : Imm16)
  | blez (rs : RegIdx) (imm : Imm16)
  | bgtz (rs : RegIdx) (imm : Imm16)
  | bltz (rs : RegIdx) (imm : Imm16)
  | bgez (rs : RegIdx) (imm : Imm16)
  | bltzal (rs : RegIdx) (imm : Imm16)
  | bgezal (rs : RegIdx) (imm : Imm16)
  | j (index : BitVec 26)
  | jal (index : BitVec 26)
  | jr (rs : RegIdx)
  | jalr (rd rs : RegIdx)
  -- 43_load_store.md
  | lw (rt rs : RegIdx) (imm : Imm16)
  | lh (rt rs : RegIdx) (imm : Imm16)
  | lhu (rt rs : RegIdx) (imm : Imm16)
  | lb (rt rs : RegIdx) (imm : Imm16)
  | lbu (rt rs : RegIdx) (imm : Imm16)
  | sw (rt rs : RegIdx) (imm : Imm16)
  | sh (rt rs : RegIdx) (imm : Imm16)
  | sb (rt rs : RegIdx) (imm : Imm16)
  -- 44_unaligned.md
  | lwl (rt rs : RegIdx) (imm : Imm16)
  | lwr (rt rs : RegIdx) (imm : Imm16)
  | swl (rt rs : RegIdx) (imm : Imm16)
  | swr (rt rs : RegIdx) (imm : Imm16)
  -- 45_muldiv.md
  | mult (rs rt : RegIdx)
  | multu (rs rt : RegIdx)
  | mul (rd rs rt : RegIdx)
  | div (rs rt : RegIdx)
  | divu (rs rt : RegIdx)
  | mfhi (rd : RegIdx)
  | mflo (rd : RegIdx)
  | mthi (rs : RegIdx)
  | mtlo (rs : RegIdx)
  -- 46_system.md
  | syscall
  | brk
  | teq (rs rt : RegIdx)
  -- 47_logic_shift_compare.md
  | and (rd rs rt : RegIdx)
  | or (rd rs rt : RegIdx)
  | xor (rd rs rt : RegIdx)
  | nor (rd rs rt : RegIdx)
  | andi (rt rs : RegIdx) (imm : Imm16)
  | ori (rt rs : RegIdx) (imm : Imm16)
  | xori (rt rs : RegIdx) (imm : Imm16)
  | lui (rt : RegIdx) (imm : Imm16)
  | sll (rd rt : RegIdx) (sa : BitVec 5)
  | srl (rd rt : RegIdx) (sa : BitVec 5)
  | sra (rd rt : RegIdx) (sa : BitVec 5)
  | sllv (rd rt rs : RegIdx)
  | srlv (rd rt rs : RegIdx)
  | srav (rd rt rs : RegIdx)
  | slt (rd rs rt : RegIdx)
  | sltu (rd rs rt : RegIdx)
  | slti (rt rs : RegIdx) (imm : Imm16)
  | sltiu (rt rs : RegIdx) (imm : Imm16)
deriving DecidableEq, Repr

end Sys2Proof
end

