-- ==== Sys2Proof/WellFormed.lean ====
section
/-! DEFINITION. Which instructions a machine has. Every operand field has the width its type gives it
(30_encoding.md R100), so the one check left is INCLUDE_UNNAMED_OPS (R92). -/

namespace Sys2Proof

/-- The six instructions the source never names (30_encoding.md R92; 92_eei_decisions.md D3). -/
def Instr.isUnnamed : Instr → Bool
  | .sb .. | .lui .. | .mfhi .. | .mflo .. | .mthi .. | .mtlo .. => true
  | .add .. | .addi .. | .sub .. | .addu .. | .addiu .. | .subu ..
  | .beq .. | .bne .. | .blez .. | .bgtz .. | .bltz .. | .bgez .. | .bltzal .. | .bgezal ..
  | .j .. | .jal .. | .jr .. | .jalr ..
  | .lw .. | .lh .. | .lhu .. | .lb .. | .lbu .. | .sw .. | .sh ..
  | .lwl .. | .lwr .. | .swl .. | .swr ..
  | .mult .. | .multu .. | .mul .. | .div .. | .divu ..
  | .syscall | .brk | .teq ..
  | .and .. | .or .. | .xor .. | .nor .. | .andi .. | .ori .. | .xori ..
  | .sll .. | .srl .. | .sra .. | .sllv .. | .srlv .. | .srav ..
  | .slt .. | .sltu .. | .slti .. | .sltiu .. => false

/-- The instruction exists on the machine with parameters `c` (30_encoding.md R92). -/
def Instr.WellFormed (c : Config) (i : Instr) : Bool :=
  c.includeUnnamedOps || !i.isUnnamed

end Sys2Proof
end

