-- ==== Sys2Proof/Decode.lean ====
section
/-! DEFINITION. The decoder, total on every word (30_encoding.md R86 to R96), and the encoder, both from the
tables of R90, R91 and R93. -/

namespace Sys2Proof

/-! ## Fields (30_encoding.md R81) -/

/-- `op`, bits 31:26. -/
def opField (w : Word) : BitVec 6 := w.extractLsb' 26 6

/-- `rs`, bits 25:21. -/
def rsField (w : Word) : RegIdx := w.extractLsb' 21 5

/-- `rt`, bits 20:16; the selector of REGIMM. -/
def rtField (w : Word) : RegIdx := w.extractLsb' 16 5

/-- `rd`, bits 15:11. -/
def rdField (w : Word) : RegIdx := w.extractLsb' 11 5

/-- `sa`, bits 10:6. -/
def saField (w : Word) : BitVec 5 := w.extractLsb' 6 5

/-- `funct`, bits 5:0. -/
def functField (w : Word) : BitVec 6 := w.extractLsb' 0 6

/-- `imm`, bits 15:0. -/
def immField (w : Word) : Imm16 := w.extractLsb' 0 16

/-- `index`, bits 25:0. -/
def indexField (w : Word) : BitVec 26 := w.extractLsb' 0 26

/-! ## Formats (30_encoding.md R82) -/

/-- R format. -/
def packR (op : BitVec 6) (rs rt rd : RegIdx) (sa : BitVec 5) (funct : BitVec 6) : Word :=
  op ++ rs ++ rt ++ rd ++ sa ++ funct

/-- I format, and RI with the selector in the place of `rt`. -/
def packI (op : BitVec 6) (rs rt : RegIdx) (imm : Imm16) : Word :=
  op ++ rs ++ rt ++ imm

/-- J format. -/
def packJ (op : BitVec 6) (index : BitVec 26) : Word :=
  op ++ index

/-! ## The decoder -/

/-- `op = 000000`, selected by `funct` (30_encoding.md R90). -/
def decodeSpecial (w : Word) : Option Instr :=
  match functField w with
  | 0b000000#6 => some (.sll (rdField w) (rtField w) (saField w))
  | 0b000010#6 => some (.srl (rdField w) (rtField w) (saField w))
  | 0b000011#6 => some (.sra (rdField w) (rtField w) (saField w))
  | 0b000100#6 => some (.sllv (rdField w) (rtField w) (rsField w))
  | 0b000110#6 => some (.srlv (rdField w) (rtField w) (rsField w))
  | 0b000111#6 => some (.srav (rdField w) (rtField w) (rsField w))
  | 0b001000#6 => some (.jr (rsField w))
  | 0b001001#6 => some (.jalr (rdField w) (rsField w))
  | 0b001100#6 => some .syscall
  | 0b001101#6 => some .brk
  | 0b010000#6 => some (.mfhi (rdField w))
  | 0b010001#6 => some (.mthi (rsField w))
  | 0b010010#6 => some (.mflo (rdField w))
  | 0b010011#6 => some (.mtlo (rsField w))
  | 0b011000#6 => some (.mult (rsField w) (rtField w))
  | 0b011001#6 => some (.multu (rsField w) (rtField w))
  | 0b011010#6 => some (.div (rsField w) (rtField w))
  | 0b011011#6 => some (.divu (rsField w) (rtField w))
  | 0b100000#6 => some (.add (rdField w) (rsField w) (rtField w))
  | 0b100001#6 => some (.addu (rdField w) (rsField w) (rtField w))
  | 0b100010#6 => some (.sub (rdField w) (rsField w) (rtField w))
  | 0b100011#6 => some (.subu (rdField w) (rsField w) (rtField w))
  | 0b100100#6 => some (.and (rdField w) (rsField w) (rtField w))
  | 0b100101#6 => some (.or (rdField w) (rsField w) (rtField w))
  | 0b100110#6 => some (.xor (rdField w) (rsField w) (rtField w))
  | 0b100111#6 => some (.nor (rdField w) (rsField w) (rtField w))
  | 0b101010#6 => some (.slt (rdField w) (rsField w) (rtField w))
  | 0b101011#6 => some (.sltu (rdField w) (rsField w) (rtField w))
  | 0b110100#6 => some (.teq (rsField w) (rtField w))
  | _ => none

/-- `op = 011100`, selected by `funct` (30_encoding.md R91). -/
def decodeSpecial2 (w : Word) : Option Instr :=
  match functField w with
  | 0b000010#6 => some (.mul (rdField w) (rsField w) (rtField w))
  | _ => none

/-- `op = 000001`, selected by bits 20:16 (30_encoding.md R91). -/
def decodeRegimm (w : Word) : Option Instr :=
  match rtField w with
  | 0b00000#5 => some (.bltz (rsField w) (immField w))
  | 0b00001#5 => some (.bgez (rsField w) (immField w))
  | 0b10000#5 => some (.bltzal (rsField w) (immField w))
  | 0b10001#5 => some (.bgezal (rsField w) (immField w))
  | _ => none

/-- The dispatch of 30_encoding.md R88 with the tables of R90, R91, R93; `none` where no row fits. -/
def decodeFields (w : Word) : Option Instr :=
  match opField w with
  | 0b000000#6 => decodeSpecial w
  | 0b011100#6 => decodeSpecial2 w
  | 0b000001#6 => decodeRegimm w
  | 0b000010#6 => some (.j (indexField w))
  | 0b000011#6 => some (.jal (indexField w))
  | 0b000100#6 => some (.beq (rsField w) (rtField w) (immField w))
  | 0b000101#6 => some (.bne (rsField w) (rtField w) (immField w))
  | 0b000110#6 => some (.blez (rsField w) (immField w))
  | 0b000111#6 => some (.bgtz (rsField w) (immField w))
  | 0b001000#6 => some (.addi (rtField w) (rsField w) (immField w))
  | 0b001001#6 => some (.addiu (rtField w) (rsField w) (immField w))
  | 0b001010#6 => some (.slti (rtField w) (rsField w) (immField w))
  | 0b001011#6 => some (.sltiu (rtField w) (rsField w) (immField w))
  | 0b001100#6 => some (.andi (rtField w) (rsField w) (immField w))
  | 0b001101#6 => some (.ori (rtField w) (rsField w) (immField w))
  | 0b001110#6 => some (.xori (rtField w) (rsField w) (immField w))
  | 0b001111#6 => some (.lui (rtField w) (immField w))
  | 0b100000#6 => some (.lb (rtField w) (rsField w) (immField w))
  | 0b100001#6 => some (.lh (rtField w) (rsField w) (immField w))
  | 0b100010#6 => some (.lwl (rtField w) (rsField w) (immField w))
  | 0b100011#6 => some (.lw (rtField w) (rsField w) (immField w))
  | 0b100100#6 => some (.lbu (rtField w) (rsField w) (immField w))
  | 0b100101#6 => some (.lhu (rtField w) (rsField w) (immField w))
  | 0b100110#6 => some (.lwr (rtField w) (rsField w) (immField w))
  | 0b101000#6 => some (.sb (rtField w) (rsField w) (immField w))
  | 0b101001#6 => some (.sh (rtField w) (rsField w) (immField w))
  | 0b101010#6 => some (.swl (rtField w) (rsField w) (immField w))
  | 0b101011#6 => some (.sw (rtField w) (rsField w) (immField w))
  | 0b101110#6 => some (.swr (rtField w) (rsField w) (immField w))
  | _ => none

/-- The bits DECODE_STRICT_ZERO_FIELDS requires to be 0: column `zero_fields` of opcode_table.json
(30_encoding.md R89). The code fields of SYSCALL, BREAK and TEQ are not among them. -/
def Instr.zeroFieldMask : Instr → Word
  | .sll .. | .srl .. | .sra .. => packR 0 31 0 0 0 0
  | .sllv .. | .srlv .. | .srav .. => packR 0 0 0 0 31 0
  | .jr .. | .mthi .. | .mtlo .. => packR 0 0 31 31 31 0
  | .jalr .. => packR 0 0 31 0 31 0
  | .mfhi .. | .mflo .. => packR 0 31 31 0 31 0
  | .mult .. | .multu .. | .div .. | .divu .. => packR 0 0 0 31 31 0
  | .add .. | .addu .. | .sub .. | .subu .. | .and .. | .or .. | .xor .. | .nor .. | .slt .. | .sltu ..
  | .mul .. => packR 0 0 0 0 31 0
  | .blez .. | .bgtz .. => packI 0 0 31 0
  | .lui .. => packI 0 31 0 0
  | .syscall | .brk | .teq ..
  | .bltz .. | .bgez .. | .bltzal .. | .bgezal .. | .j .. | .jal .. | .beq .. | .bne ..
  | .addi .. | .addiu .. | .slti .. | .sltiu .. | .andi .. | .ori .. | .xori ..
  | .lb .. | .lh .. | .lwl .. | .lw .. | .lbu .. | .lhu .. | .lwr ..
  | .sb .. | .sh .. | .swl .. | .sw .. | .swr .. => 0

/-- The bits the decoder never looks at: column `ignored_fields` of opcode_table.json, the code fields of
SYSCALL and BREAK (bits 25:6) and TEQ (bits 15:6) (30_encoding.md R89). -/
def Instr.codeFieldMask : Instr → Word
  | .syscall | .brk => packR 0 31 31 31 31 0
  | .teq .. => packR 0 0 0 31 31 0
  | .sll .. | .srl .. | .sra .. | .sllv .. | .srlv .. | .srav .. | .jr .. | .jalr ..
  | .mfhi .. | .mthi .. | .mflo .. | .mtlo .. | .mult .. | .multu .. | .div .. | .divu ..
  | .add .. | .addu .. | .sub .. | .subu .. | .and .. | .or .. | .xor .. | .nor .. | .slt .. | .sltu ..
  | .mul .. | .bltz .. | .bgez .. | .bltzal .. | .bgezal .. | .j .. | .jal .. | .beq .. | .bne ..
  | .blez .. | .bgtz .. | .addi .. | .addiu .. | .slti .. | .sltiu .. | .andi .. | .ori .. | .xori ..
  | .lui .. | .lb .. | .lh .. | .lwl .. | .lw .. | .lbu .. | .lhu .. | .lwr ..
  | .sb .. | .sh .. | .swl .. | .sw .. | .swr .. => 0

/-- The decoder's result (30_encoding.md R86, R100): an instruction of the set, or `Unknown(word)`. -/
inductive Decoded where
  | instr (i : Instr)
  | unknown (word : Word)
deriving DecidableEq, Repr

/-- The word's unused fields are as the decoder wants them: any value, or 0 when it is strict
(30_encoding.md R89). -/
def fieldsAccepted (c : Config) (i : Instr) (w : Word) : Bool :=
  !c.decodeStrictZeroFields || w &&& i.zeroFieldMask == 0#32

/-- `decode`: pure and total (30_encoding.md R86), by the rows of R90, R91, R93, less the words the parameters
of R89 and R92 take out. -/
def decode (c : Config) (w : Word) : Decoded :=
  match decodeFields w with
  | some i => if i.WellFormed c && fieldsAccepted c i w then .instr i else .unknown w
  | none => .unknown w

/-! ## The encoder -/

/-- The word of an instruction, unused and code fields 0 (30_encoding.md R82, R90, R91, R93). -/
def encode : Instr → Word
  | .sll rd rt sa => packR 0b000000#6 0#5 rt rd sa 0b000000#6
  | .srl rd rt sa => packR 0b000000#6 0#5 rt rd sa 0b000010#6
  | .sra rd rt sa => packR 0b000000#6 0#5 rt rd sa 0b000011#6
  | .sllv rd rt rs => packR 0b000000#6 rs rt rd 0#5 0b000100#6
  | .srlv rd rt rs => packR 0b000000#6 rs rt rd 0#5 0b000110#6
  | .srav rd rt rs => packR 0b000000#6 rs rt rd 0#5 0b000111#6
  | .jr rs => packR 0b000000#6 rs 0#5 0#5 0#5 0b001000#6
  | .jalr rd rs => packR 0b000000#6 rs 0#5 rd 0#5 0b001001#6
  | .syscall => packR 0b000000#6 0#5 0#5 0#5 0#5 0b001100#6
  | .brk => packR 0b000000#6 0#5 0#5 0#5 0#5 0b001101#6
  | .mfhi rd => packR 0b000000#6 0#5 0#5 rd 0#5 0b010000#6
  | .mthi rs => packR 0b000000#6 rs 0#5 0#5 0#5 0b010001#6
  | .mflo rd => packR 0b000000#6 0#5 0#5 rd 0#5 0b010010#6
  | .mtlo rs => packR 0b000000#6 rs 0#5 0#5 0#5 0b010011#6
  | .mult rs rt => packR 0b000000#6 rs rt 0#5 0#5 0b011000#6
  | .multu rs rt => packR 0b000000#6 rs rt 0#5 0#5 0b011001#6
  | .div rs rt => packR 0b000000#6 rs rt 0#5 0#5 0b011010#6
  | .divu rs rt => packR 0b000000#6 rs rt 0#5 0#5 0b011011#6
  | .add rd rs rt => packR 0b000000#6 rs rt rd 0#5 0b100000#6
  | .addu rd rs rt => packR 0b000000#6 rs rt rd 0#5 0b100001#6
  | .sub rd rs rt => packR 0b000000#6 rs rt rd 0#5 0b100010#6
  | .subu rd rs rt => packR 0b000000#6 rs rt rd 0#5 0b100011#6
  | .and rd rs rt => packR 0b000000#6 rs rt rd 0#5 0b100100#6
  | .or rd rs rt => packR 0b000000#6 rs rt rd 0#5 0b100101#6
  | .xor rd rs rt => packR 0b000000#6 rs rt rd 0#5 0b100110#6
  | .nor rd rs rt => packR 0b000000#6 rs rt rd 0#5 0b100111#6
  | .slt rd rs rt => packR 0b000000#6 rs rt rd 0#5 0b101010#6
  | .sltu rd rs rt => packR 0b000000#6 rs rt rd 0#5 0b101011#6
  | .teq rs rt => packR 0b000000#6 rs rt 0#5 0#5 0b110100#6
  | .mul rd rs rt => packR 0b011100#6 rs rt rd 0#5 0b000010#6
  | .bltz rs imm => packI 0b000001#6 rs 0b00000#5 imm
  | .bgez rs imm => packI 0b000001#6 rs 0b00001#5 imm
  | .bltzal rs imm => packI 0b000001#6 rs 0b10000#5 imm
  | .bgezal rs imm => packI 0b000001#6 rs 0b10001#5 imm
  | .j index => packJ 0b000010#6 index
  | .jal index => packJ 0b000011#6 index
  | .beq rs rt imm => packI 0b000100#6 rs rt imm
  | .bne rs rt imm => packI 0b000101#6 rs rt imm
  | .blez rs imm => packI 0b000110#6 rs 0#5 imm
  | .bgtz rs imm => packI 0b000111#6 rs 0#5 imm
  | .addi rt rs imm => packI 0b001000#6 rs rt imm
  | .addiu rt rs imm => packI 0b001001#6 rs rt imm
  | .slti rt rs imm => packI 0b001010#6 rs rt imm
  | .sltiu rt rs imm => packI 0b001011#6 rs rt imm
  | .andi rt rs imm => packI 0b001100#6 rs rt imm
  | .ori rt rs imm => packI 0b001101#6 rs rt imm
  | .xori rt rs imm => packI 0b001110#6 rs rt imm
  | .lui rt imm => packI 0b001111#6 0#5 rt imm
  | .lb rt rs imm => packI 0b100000#6 rs rt imm
  | .lh rt rs imm => packI 0b100001#6 rs rt imm
  | .lwl rt rs imm => packI 0b100010#6 rs rt imm
  | .lw rt rs imm => packI 0b100011#6 rs rt imm
  | .lbu rt rs imm => packI 0b100100#6 rs rt imm
  | .lhu rt rs imm => packI 0b100101#6 rs rt imm
  | .lwr rt rs imm => packI 0b100110#6 rs rt imm
  | .sb rt rs imm => packI 0b101000#6 rs rt imm
  | .sh rt rs imm => packI 0b101001#6 rs rt imm
  | .swl rt rs imm => packI 0b101010#6 rs rt imm
  | .sw rt rs imm => packI 0b101011#6 rs rt imm
  | .swr rt rs imm => packI 0b101110#6 rs rt imm

/-! ## Bytes -/

/-- A little-endian word from its four bytes, lowest address first (20_memory.md R52, R55). -/
def wordOfBytes (b0 b1 b2 b3 : Byte) : Word := b3 ++ b2 ++ b1 ++ b0

/-- Byte `i` of a word, byte 0 the least significant (00_scope.md R14). -/
def byteOfWord (w : Word) (i : Nat) : Byte := w.extractLsb' (8 * i) 8

/-- The word whose bits are `w`, the bits from `nbits` up taken as 0. -/
def tableWord (nbits w : Nat) : Word := BitVec.ofNat 32 (w % 2 ^ nbits)

/-- What the decoder of the default machine reads from an instruction whose bits are `w`, numbered as
opcode_table.json numbers them: laid out as four bytes, least significant first, and put together as fetch does. -/
def decodeTableWord (nbits w : Nat) : Option Instr :=
  let word := tableWord nbits w
  match decode Config.hardware
      (wordOfBytes (byteOfWord word 0) (byteOfWord word 1) (byteOfWord word 2) (byteOfWord word 3)) with
  | .instr i => some i
  | .unknown _ => none

end Sys2Proof
end

