-- ==== Sys2Proof/Machine/State.lean ====
section
/-! DEFINITION. The state of 10_state.md R20 as plain data, the events of 60_exceptions.md, and the state after
reset. -/

namespace Sys2Proof.Machine

/-- Memory as a list of (address, byte) cells in one canonical form (`Memory.wf`). An address not listed reads 0
(10_state.md R34; 20_memory.md R50, R53). -/
abbrev Memory := List Host.Cell

/-- The 31 mutable registers ("Physically only 31 mutable slots are needed", 10_state.md R22): slot `i - 1` holds
`x[i]`. Register 0 has no storage. -/
abbrev Regs := Vector Word 31

/-- The causes of a trap (60_exceptions.md R251). -/
inductive TrapCause where
  | overflowADD
  | overflowADDI
  | overflowSUB
  | unalignedWord
  | unalignedHalf
  | trapOnEqual
deriving DecidableEq, Repr

/-- The kinds of engine error (60_exceptions.md R262). The register-index kind is raised at the debug port only,
the three loading kinds at the reset port only. -/
inductive EngineError where
  | unknownInstruction (word : Word)
  | unknownSyscall (n : Word)
  | registerIndexOutOfRange (i : Nat)
  | notExecutable
  | notMips
  | segmentOverflow
  | divideByZero
  | divideOverflow
  | misalignedJumpTarget (target : Word)
  | unterminatedString
  | badInput
  | readStringZeroLength
  | addressOverflow
deriving DecidableEq, Repr

/-- `run_state` (10_state.md R38). -/
inductive RunState where
  | running
  | paused
  | halted
  | failed (kind : EngineError)
deriving DecidableEq, Repr

/-- What a step returns when it stops the run (50_step_cycle.md R221, R222, R230). -/
inductive Stop where
  | breakpoint (addr : Word)
  | exit
  | engineError (kind : EngineError)
deriving DecidableEq, Repr

/-- `Report(pc, cause)` on the report port (60_exceptions.md R254). -/
structure Report where
  pc : Word
  cause : TrapCause
deriving DecidableEq, Repr

/-- An output on the environment port (46_system.md R182). -/
inductive EnvOutput where
  | printInt (value : Int)
  | printString (bytes : List Byte)
deriving DecidableEq, Repr

/-- The whole state of the block (10_state.md R20), then the model's own fields (INVENTORY.md, logs 3 to 9). -/
structure State where
  /-- `x[1]`..`x[31]` (10_state.md R21). -/
  regs : Regs
  /-- `hi` (10_state.md R27). -/
  hi : Word
  /-- `lo` (10_state.md R27). -/
  lo : Word
  /-- The address of the executing instruction (10_state.md R30). -/
  pc : Word
  /-- The address of the instruction that executes next (10_state.md R31). -/
  npc : Word
  /-- The one memory (10_state.md R34). -/
  mem : Memory
  /-- The breakpoint set, as a list in rising order (10_state.md R35; log 10). -/
  breakpoints : List Word
  /-- The breakpoint the last stop removed (10_state.md R36). -/
  pendingRearm : Option Word
  /-- `run_state` (10_state.md R38). -/
  runState : RunState
  /-- Model's own: the parameters of 00_scope.md R9; no step changes them. DESIGN CHOICE, log 3. -/
  config : Config
  /-- Model's own: what the last `step()` returned. DESIGN CHOICE, log 6. -/
  lastStop : Option Stop
  /-- Model's own: the report port's record, oldest first (60_exceptions.md R257). DESIGN CHOICE, log 7. -/
  reports : List Report
  /-- Model's own: the environment port's outputs, oldest first (46_system.md R182). DESIGN CHOICE, log 7. -/
  outputs : List EnvOutput
  /-- Model's own: answers of `Env.read_int` fixed in advance, `none` a failed read. DESIGN CHOICE, log 8. -/
  intInputs : List (Option Word)
  /-- Model's own: deliveries of `Env.read_string` fixed in advance. DESIGN CHOICE, log 8. -/
  lineInputs : List (List Byte)
  /-- Model's own: how many free values have been taken. DESIGN CHOICE, log 9. -/
  draws : Nat
deriving DecidableEq, Repr

/-- Why a step is not taken: the machine is stuck. -/
inductive Fault where
  /-- Raised by `step` in `Halted`: no step is taken there (50_step_cycle.md R236). Safe: nothing is executed. -/
  | halted
  /-- Raised by `step` in `Failed(kind)`: no step is taken there (50_step_cycle.md R236). Safe: nothing is
  executed. -/
  | failed (kind : EngineError)
deriving DecidableEq, Repr

/-- Why the model gives a step no meaning. -/
inductive Refusal where
  /-- Raised by an arm of `exec` whose instruction has no meaning yet. Safe. No arm raises it. -/
  | notModelled (mnemonic : String)
  /-- Raised by `step` when the word at `pc` would run past `0xFFFFFFFF`, which has no defined result
  (20_memory.md R56) and is possible only under JR_MISALIGNED_POLICY = as_is. Safe. DESIGN CHOICE, log 12. -/
  | fetchPastTop
deriving DecidableEq, Repr

/-- Before the first reset: "created empty/halted" (70_reset_and_hazards.md R280). -/
def State.created : State where
  regs := Vector.replicate 31 0#32
  hi := 0
  lo := 0
  pc := 0
  npc := 0
  mem := []
  breakpoints := []
  pendingRearm := none
  runState := .halted
  config := Config.hardware
  lastStop := none
  reports := []
  outputs := []
  intInputs := []
  lineInputs := []
  draws := 0

/-- Right after a reset with an image that loads nothing and `raw_entry = 0` (10_state.md R45 to R48). The spec
fixes no reset vector (R46): entry 0 is a DESIGN CHOICE, log 1. -/
def State.reset : State :=
  { State.created with pc := 0, npc := 4, runState := .paused }

end Sys2Proof.Machine
end

