-- ==== Sys2Proof/Machine/Ops.lean ====
section
/-! DEFINITION. The shared operations: registers, memory, the breakpoint set, the control transfers
(50_step_cycle.md R224 to R228), taking a trap, the stopping outcomes (R229, R230), the draws. -/

namespace Sys2Proof.Machine

/-- What executing an instruction answers. -/
abbrev Result := Host.Outcome State Fault Refusal

/-! ## Registers (00_scope.md R13; 10_state.md R22) -/

/-- `x[i]`: register 0 reads 0. -/
def Regs.read (r : Regs) (i : RegIdx) : Word :=
  if i = 0#5 then 0#32 else r[i.toNat - 1]'(by have := i.isLt; omega)

/-- `x[i] <- v`: a write to register 0 does nothing. -/
def Regs.write (r : Regs) (i : RegIdx) (v : Word) : Regs :=
  if i = 0#5 then r else r.set (i.toNat - 1) v (by have := i.isLt; omega)

/-- `x[i]`. -/
def State.readReg (s : State) (i : RegIdx) : Word := s.regs.read i

/-- `x[i] <- v`. -/
def State.writeReg (s : State) (i : RegIdx) (v : Word) : State := { s with regs := s.regs.write i v }

/-- `hi <- h`, `lo <- l`. -/
def State.setHiLo (s : State) (h l : Word) : State := { s with hi := h, lo := l }

/-- `hi <- h` (45_muldiv.md R174). -/
def State.setHi (s : State) (h : Word) : State := { s with hi := h }

/-- `lo <- l` (45_muldiv.md R175). -/
def State.setLo (s : State) (l : Word) : State := { s with lo := l }

/-- A new memory. -/
def State.setMem (s : State) (m : Memory) : State := { s with mem := m }

/-- `Report(pc, cause)` sent on the report port (60_exceptions.md R254). -/
def State.report (s : State) (pc : Word) (cause : TrapCause) : State :=
  { s with reports := s.reports ++ [⟨pc, cause⟩] }

/-- An output sent on the environment port (46_system.md R182). -/
def State.emit (s : State) (o : EnvOutput) : State := { s with outputs := s.outputs ++ [o] }

/-- A stop returned by the step, with the run state it leaves (50_step_cycle.md R230). -/
def State.stop (s : State) (r : RunState) (e : Stop) : State := { s with runState := r, lastStop := some e }

/-! ## Memory cells -/

/-- The byte at an address; an unlisted address reads 0 (10_state.md R34). -/
def Memory.read : Memory → Nat → Byte
  | [], _ => 0#8
  | (k, v) :: rest, a => if k = a then v else Memory.read rest a

/-- The list without the cell of an address. -/
def Memory.erase : Memory → Nat → Memory
  | [], _ => []
  | (k, v) :: rest, a => if k = a then Memory.erase rest a else (k, v) :: Memory.erase rest a

/-- A cell put in its place, before the first greater address. -/
def Memory.insertCell : Memory → Nat → Byte → Memory
  | [], a, v => [(a, v)]
  | (k, w) :: rest, a, v =>
    if a < k then (a, v) :: (k, w) :: rest else (k, w) :: Memory.insertCell rest a v

/-- One byte written; a zero byte leaves no cell, so equal memories are equal lists. -/
def Memory.write (m : Memory) (a : Nat) (v : Byte) : Memory :=
  if v = 0#8 then m.erase a else (m.erase a).insertCell a v

/-- Addresses rise strictly from `lo`, lie below 2^32, and no cell holds 0. -/
def Memory.wfFrom : Nat → Memory → Bool
  | _, [] => true
  | lo, (k, v) :: rest => decide (lo ≤ k) && decide (k < 2 ^ 32) && decide (v ≠ 0#8) && Memory.wfFrom (k + 1) rest

/-- The canonical form. -/
def Memory.wf (m : Memory) : Bool := Memory.wfFrom 0 m

/-! ## Memory accessors (00_scope.md R14; 20_memory.md R51, R52)

They check no alignment and no end of the address space: their callers do (R56, R58). -/

/-- `get_byte(a)`, `MemRead(a, 1)`. -/
def Memory.getByte (m : Memory) (a : Word) : Byte := m.read a.toNat

/-- `get_half_word(a)`, `MemRead(a, 2)`. -/
def Memory.getHalf (m : Memory) (a : Word) : BitVec 16 := m.getByte (a + 1#32) ++ m.getByte a

/-- `get_word(a)`, `MemRead(a, 4)`. -/
def Memory.getWord (m : Memory) (a : Word) : Word :=
  wordOfBytes (m.getByte a) (m.getByte (a + 1#32)) (m.getByte (a + 2#32)) (m.getByte (a + 3#32))

/-- `set_byte(a, v)`, `MemWrite(a, 1, v)`. -/
def Memory.setByte (m : Memory) (a : Word) (v : Byte) : Memory := m.write a.toNat v

/-- `bs` written to consecutive addresses from `a` on. -/
def Memory.setBytes : Memory → Word → List Byte → Memory
  | m, _, [] => m
  | m, a, b :: bs => Memory.setBytes (m.setByte a b) (a + 1#32) bs

/-- `set_half_word(a, v)`, `MemWrite(a, 2, v)`. -/
def Memory.setHalf (m : Memory) (a : Word) (v : BitVec 16) : Memory :=
  m.setBytes a [v.extractLsb' 0 8, v.extractLsb' 8 8]

/-- `set_word(a, v)`, `MemWrite(a, 4, v)`. -/
def Memory.setWord (m : Memory) (a : Word) (v : Word) : Memory :=
  m.setBytes a [byteOfWord v 0, byteOfWord v 1, byteOfWord v 2, byteOfWord v 3]

/-- An `n`-byte access at `a` stays below 2^32 (20_memory.md R56). -/
def accessFits (a : Word) (n : Nat) : Bool := decide (a.toNat + n ≤ 2 ^ 32)

/-! ## The breakpoint set (10_state.md R35), a list in strictly rising order -/

/-- `set ∪ {a}`. -/
def BreakSet.insert : List Word → Word → List Word
  | [], a => [a]
  | b :: rest, a =>
    if a = b then b :: rest else if a < b then a :: b :: rest else b :: BreakSet.insert rest a

/-- `set \ {a}`. -/
def BreakSet.erase (bs : List Word) (a : Word) : List Word := bs.filter (fun b => b ≠ a)

/-- Addresses rise strictly from `lo`. -/
def BreakSet.wfFrom : Nat → List Word → Bool
  | _, [] => true
  | lo, b :: rest => decide (lo ≤ b.toNat) && BreakSet.wfFrom (b.toNat + 1) rest

/-- The canonical form. -/
def BreakSet.wf (bs : List Word) : Bool := BreakSet.wfFrom 0 bs

/-! ## Control transfers (50_step_cycle.md R224 to R228) -/

/-- `pc <- npc_old`, `npc <- target`, one update (R224). -/
def State.advanceTo (s : State) (target : Word) : State :=
  { s with pc := s.npc, npc := target, lastStop := none }

/-- The state after `next` (R225). -/
def State.advance (s : State) : State := s.advanceTo (s.npc + 4#32)

/-- `next` (R225). -/
def proceed (s : State) : Result := .next s.advance

/-- `branch(off)` (R226). -/
def branchBy (off : Word) (s : State) : Result := .next (s.advanceTo (s.npc + off))

/-- `jump_index(idx)` (R227). -/
def jumpIndex (index : BitVec 26) (s : State) : Result :=
  .next (s.advanceTo ((s.npc &&& 0xF0000000#32) ||| (index.setWidth 32 <<< 2)))

/-- `jump_real(t)` (R228). -/
def jumpReal (t : Word) (s : State) : Result := .next (s.advanceTo t)

/-! ## Taking a trap (50_step_cycle.md R229; 60_exceptions.md R253 to R256)

Nothing is saved, no mode changes and control goes to no vector (R255); there is no return from a trap (R256). -/

/-- `raise Trap(cause)`: report, then advance as for `next`. -/
def raiseTrap (cause : TrapCause) (s : State) : Result :=
  .next (s.report s.pc cause).advance

/-- The reason string of a cause (40_arith_overflow.md R117; 43_load_store.md R151; 60_exceptions.md R251). -/
def TrapCause.reason : TrapCause → String
  | .overflowADD => "ADD overflow"
  | .overflowADDI => "ADDI overflow"
  | .overflowSUB => "SUB overflow"
  | .unalignedWord => "Address unaligned on word boundary."
  | .unalignedHalf => "Address unaligned on half-word boundary."
  | .trapOnEqual => "TEQ trap"

/-! ## The stopping outcomes (50_step_cycle.md R230) -/

/-- `raise Exit`: `run_state <- Halted`, `pc` and `npc` unchanged. -/
def raiseExit (s : State) : Result := .next (s.stop .halted .exit)

/-- `raise Breakpoint` by a BREAK: `run_state <- Paused`, the pair advanced under BREAK_ADVANCES_PC. -/
def raiseBreakpoint (s : State) : Result :=
  .next ((if s.config.breakAdvancesPc then s.advance else s).stop .paused (.breakpoint s.pc))

/-- `raise EngineError(kind)`: `run_state <- Failed(kind)` and nothing else (60_exceptions.md R263). `s` is the
state at the start of the instruction. -/
def raiseEngineError (kind : EngineError) (s : State) : Result :=
  .next (s.stop (.failed kind) (.engineError kind))

/-! ## The breakpoint logic of a step (50_step_cycle.md R221 to R223) -/

/-- The stop on an armed breakpoint at `pc` (R222). -/
def State.breakpointStop (s : State) : State :=
  { s with
    breakpoints := BreakSet.erase s.breakpoints s.pc
    pendingRearm := some s.pc
    lastStop := some (.breakpoint s.pc) }

/-- A pending address goes back into the set (R223). -/
def State.rearm (s : State) : State :=
  match s.pendingRearm with
  | some a => { s with breakpoints := BreakSet.insert s.breakpoints a, pendingRearm := none }
  | none => s

/-! ## Fetch (50_step_cycle.md R221; 20_memory.md R55, R70) -/

/-- `MemRead(pc, 4)`. -/
def State.fetchWord (s : State) : Word := s.mem.getWord s.pc

/-! ## Draws (46_system.md R182; 45_muldiv.md R171) -/

/-- `Env.read_int()`: the next answer fixed in advance, else a free one. -/
def State.drawInt (s : State) : Option Word × State :=
  match s.intInputs with
  | r :: rest => (r, { s with intInputs := rest })
  | [] => (Config.envInt s.draws, { s with draws := s.draws + 1 })

/-- The console's delivery for `Env.read_string`: the next one fixed in advance, else a free one. -/
def State.drawLine (s : State) : List Byte × State :=
  match s.lineInputs with
  | line :: rest => (line, { s with lineInputs := rest })
  | [] => (Config.envLine s.draws, { s with draws := s.draws + 1 })

/-- `hi` and `lo` take free values (45_muldiv.md R171, `mips_values`). -/
def State.drawHiLo (s : State) : State :=
  { s with hi := Config.freeWord s.draws, lo := Config.freeWord (s.draws + 1), draws := s.draws + 2 }

end Sys2Proof.Machine
end

