-- ==== Sys2Proof/Machine/Operands.lean ====
section
/-! DEFINITION. Operand forms: immediates (30_encoding.md R83 to R85), effective addresses (20_memory.md R57,
R62), jump targets and link values (41_branch_jump.md). -/

namespace Sys2Proof.Machine

/-- `sext_16` (00_scope.md R12; 30_encoding.md R83). -/
def sext16 (imm : BitVec 16) : Word := imm.signExtend 32

/-- `zext_16` (00_scope.md R12; 30_encoding.md R83). -/
def zext16 (imm : BitVec 16) : Word := imm.setWidth 32

/-- `sext_8` (43_load_store.md R150). -/
def sext8 (b : Byte) : Word := b.signExtend 32

/-- `zext_8` (43_load_store.md R150). -/
def zext8 (b : Byte) : Word := b.setWidth 32

/-- The byte offset of a taken branch, `sext_16(imm) << 2` (30_encoding.md R85; 41_branch_jump.md R121). -/
def branchOffset (imm : Imm16) : Word := sext16 imm <<< 2

/-- `EA = u32(x[rs] + sext_16(imm))` (20_memory.md R57). -/
def effectiveAddress (s : State) (rs : RegIdx) (imm : Imm16) : Word := s.readReg rs + sext16 imm

/-- `EA - k`, the aligned word that holds `EA` (20_memory.md R62; 44_unaligned.md R155). -/
def alignedBase (ea : Word) : Word := ea &&& ~~~3#32

/-- `k = EA & 3` (44_unaligned.md R155). -/
def byteInWord (ea : Word) : Nat := ea.toNat % 4

/-- The link value `u32(pc + 8)` (00_scope.md R18). -/
def linkValue (s : State) : Word := s.pc + 8#32

/-- The amount of a variable shift, `x[rs] & 31` (47_logic_shift_compare.md R208). -/
def variableAmount (v : Word) : Nat := v.toNat % 32

/-- The target of JR and JALR, by JR_MISALIGNED_POLICY (41_branch_jump.md R130). -/
def registerTarget (c : Config) (t : Word) : Except EngineError Word :=
  if t.extractLsb' 0 2 = 0#2 then .ok t
  else
    match c.jrMisaligned with
    | .engineError => .error (.misalignedJumpTarget t)
    | .truncate => .ok (t &&& 0xFFFFFFFC#32)
    | .asIs => .ok t

end Sys2Proof.Machine
end

