-- ==== Sys2Proof/Machine/Flags.lean ====
section
/-! DEFINITION. The hardware has no flags (10_state.md R29). What other machines put in flags is here a test
followed by a trap, a branch or a register write: signed overflow, alignment, compare results. -/

namespace Sys2Proof.Machine

/-- No signed overflow: the exact result lies in -2^31 .. 2^31-1 (40_arith_overflow.md R110). -/
def fitsSigned (z : Int) : Bool := decide (-(2 ^ 31) ≤ z) && decide (z ≤ 2 ^ 31 - 1)

/-- Write the exact result `z`, or trap and write nothing when it overflows (40_arith_overflow.md R110). -/
def writeOrOverflow (cause : TrapCause) (rd : RegIdx) (z : Int) (s : State) : Result :=
  if fitsSigned z then proceed (s.writeReg rd (u32 z)) else raiseTrap cause s

/-- `EA mod n = 0` (20_memory.md R58). -/
def isAligned (ea : Word) (n : Nat) : Bool := ea.toNat % n == 0

/-- A compare result, 1 or 0 (47_logic_shift_compare.md R211). -/
def boolWord (b : Bool) : Word := if b then 1#32 else 0#32

/-- `branch(signed(sext_16(imm)) * 4)` when the condition holds, else `next` (41_branch_jump.md R121). -/
def branchIf (cond : Bool) (imm : Imm16) (s : State) : Result :=
  if cond then branchBy (branchOffset imm) s else proceed s

end Sys2Proof.Machine
end

