-- ==== Sys2Proof/Machine/Arith.lean ====
section
/-! DEFINITION. Addition and subtraction (40_arith_overflow.md). -/

namespace Sys2Proof.Machine

/-- `ADD rd,rs,rt` (R111). -/
def execAdd (rd rs rt : RegIdx) (s : State) : Result :=
  writeOrOverflow .overflowADD rd (signed (s.readReg rs) + signed (s.readReg rt)) s

/-- `ADDI rt,rs,imm` (R112). -/
def execAddi (rt rs : RegIdx) (imm : Imm16) (s : State) : Result :=
  writeOrOverflow .overflowADDI rt (signed (s.readReg rs) + signed (sext16 imm)) s

/-- `SUB rd,rs,rt` (R113). -/
def execSub (rd rs rt : RegIdx) (s : State) : Result :=
  writeOrOverflow .overflowSUB rd (signed (s.readReg rs) - signed (s.readReg rt)) s

/-- `ADDU rd,rs,rt` (R114). -/
def execAddu (rd rs rt : RegIdx) (s : State) : Result :=
  proceed (s.writeReg rd (s.readReg rs + s.readReg rt))

/-- `ADDIU rt,rs,imm` (R115): the immediate is sign-extended. -/
def execAddiu (rt rs : RegIdx) (imm : Imm16) (s : State) : Result :=
  proceed (s.writeReg rt (s.readReg rs + sext16 imm))

/-- `SUBU rd,rs,rt` (R116). -/
def execSubu (rd rs rt : RegIdx) (s : State) : Result :=
  proceed (s.writeReg rd (s.readReg rs - s.readReg rt))

end Sys2Proof.Machine
end

