-- ==== Sys2Proof/Machine/Branch.lean ====
section
/-! DEFINITION. Branches and jumps (41_branch_jump.md). -/

namespace Sys2Proof.Machine

/-- `BEQ rs,rt,offset` (R120). -/
def execBeq (rs rt : RegIdx) (imm : Imm16) (s : State) : Result :=
  branchIf (s.readReg rs == s.readReg rt) imm s

/-- `BNE rs,rt,offset` (R122). -/
def execBne (rs rt : RegIdx) (imm : Imm16) (s : State) : Result :=
  branchIf (s.readReg rs != s.readReg rt) imm s

/-- `BLEZ rs,offset` (R123). -/
def execBlez (rs : RegIdx) (imm : Imm16) (s : State) : Result :=
  branchIf (decide (signed (s.readReg rs) ≤ 0)) imm s

/-- `BGTZ rs,offset` (R132). -/
def execBgtz (rs : RegIdx) (imm : Imm16) (s : State) : Result :=
  branchIf (decide (signed (s.readReg rs) > 0)) imm s

/-- `BLTZ rs,offset` (R124). -/
def execBltz (rs : RegIdx) (imm : Imm16) (s : State) : Result :=
  branchIf (decide (signed (s.readReg rs) < 0)) imm s

/-- `BGEZ rs,offset` (R125). -/
def execBgez (rs : RegIdx) (imm : Imm16) (s : State) : Result :=
  branchIf (decide (signed (s.readReg rs) ≥ 0)) imm s

/-- `x[31] <- u32(pc + 8)` (R126, R127, R129). -/
def State.link (s : State) : State := s.writeReg 31#5 (linkValue s)

/-- `BLTZAL rs,offset` (R126): the link is written first, then `x[rs]` is read. -/
def execBltzal (rs : RegIdx) (imm : Imm16) (s : State) : Result :=
  branchIf (decide (signed (s.link.readReg rs) < 0)) imm s.link

/-- `BGEZAL rs,offset` (R127): the link is written first, then `x[rs]` is read. -/
def execBgezal (rs : RegIdx) (imm : Imm16) (s : State) : Result :=
  branchIf (decide (signed (s.link.readReg rs) ≥ 0)) imm s.link

/-- `J index` (R128). -/
def execJ (index : BitVec 26) (s : State) : Result := jumpIndex index s

/-- `JAL index` (R129). -/
def execJal (index : BitVec 26) (s : State) : Result := jumpIndex index s.link

/-- `JR rs` (R130). -/
def execJr (rs : RegIdx) (s : State) : Result :=
  match registerTarget s.config (s.readReg rs) with
  | .ok t => jumpReal t s
  | .error kind => raiseEngineError kind s

/-- `JALR rd,rs` (R131): `rs` is read and checked before the link is written. -/
def execJalr (rd rs : RegIdx) (s : State) : Result :=
  match registerTarget s.config (s.readReg rs) with
  | .ok t => jumpReal t (s.writeReg rd (linkValue s))
  | .error kind => raiseEngineError kind s

end Sys2Proof.Machine
end

