-- ==== Sys2Proof/Machine/LoadStore.lean ====
section
/-! DEFINITION. Aligned loads and stores (43_load_store.md). -/

namespace Sys2Proof.Machine

/-- `LW rt,offset(rs)` (R141). -/
def execLw (rt rs : RegIdx) (imm : Imm16) (s : State) : Result :=
  let ea := effectiveAddress s rs imm
  if isAligned ea 4 then proceed (s.writeReg rt (s.mem.getWord ea)) else raiseTrap .unalignedWord s

/-- `LH rt,offset(rs)` (R143). -/
def execLh (rt rs : RegIdx) (imm : Imm16) (s : State) : Result :=
  let ea := effectiveAddress s rs imm
  if isAligned ea 2 then proceed (s.writeReg rt (sext16 (s.mem.getHalf ea))) else raiseTrap .unalignedHalf s

/-- `LHU rt,offset(rs)` (R144). -/
def execLhu (rt rs : RegIdx) (imm : Imm16) (s : State) : Result :=
  let ea := effectiveAddress s rs imm
  if isAligned ea 2 then proceed (s.writeReg rt (zext16 (s.mem.getHalf ea))) else raiseTrap .unalignedHalf s

/-- `LB rt,offset(rs)` (R145). -/
def execLb (rt rs : RegIdx) (imm : Imm16) (s : State) : Result :=
  proceed (s.writeReg rt (sext8 (s.mem.getByte (effectiveAddress s rs imm))))

/-- `LBU rt,offset(rs)` (R146). -/
def execLbu (rt rs : RegIdx) (imm : Imm16) (s : State) : Result :=
  proceed (s.writeReg rt (zext8 (s.mem.getByte (effectiveAddress s rs imm))))

/-- `SW rt,offset(rs)` (R147). -/
def execSw (rt rs : RegIdx) (imm : Imm16) (s : State) : Result :=
  let ea := effectiveAddress s rs imm
  if isAligned ea 4 then proceed (s.setMem (s.mem.setWord ea (s.readReg rt)))
  else raiseTrap .unalignedWord s

/-- `SH rt,offset(rs)` (R148). -/
def execSh (rt rs : RegIdx) (imm : Imm16) (s : State) : Result :=
  let ea := effectiveAddress s rs imm
  if isAligned ea 2 then proceed (s.setMem (s.mem.setHalf ea ((s.readReg rt).extractLsb' 0 16)))
  else raiseTrap .unalignedHalf s

/-- `SB rt,offset(rs)` (R149). -/
def execSb (rt rs : RegIdx) (imm : Imm16) (s : State) : Result :=
  proceed (s.setMem (s.mem.setByte (effectiveAddress s rs imm) ((s.readReg rt).extractLsb' 0 8)))

end Sys2Proof.Machine
end

