-- ==== Sys2Proof/Machine/Logic.lean ====
section
/-! DEFINITION. Logic, shifts and compares (47_logic_shift_compare.md). Each writes one register and ends with
`next` (R195). -/

namespace Sys2Proof.Machine

/-- `AND rd,rs,rt` (R196). -/
def execAnd (rd rs rt : RegIdx) (s : State) : Result :=
  proceed (s.writeReg rd (s.readReg rs &&& s.readReg rt))

/-- `OR rd,rs,rt` (R197). -/
def execOr (rd rs rt : RegIdx) (s : State) : Result :=
  proceed (s.writeReg rd (s.readReg rs ||| s.readReg rt))

/-- `XOR rd,rs,rt` (R198). -/
def execXor (rd rs rt : RegIdx) (s : State) : Result :=
  proceed (s.writeReg rd (s.readReg rs ^^^ s.readReg rt))

/-- `NOR rd,rs,rt` (R199). -/
def execNor (rd rs rt : RegIdx) (s : State) : Result :=
  proceed (s.writeReg rd (~~~(s.readReg rs ||| s.readReg rt)))

/-- `ANDI rt,rs,imm` (R200). -/
def execAndi (rt rs : RegIdx) (imm : Imm16) (s : State) : Result :=
  proceed (s.writeReg rt (s.readReg rs &&& zext16 imm))

/-- `ORI rt,rs,imm` (R201). -/
def execOri (rt rs : RegIdx) (imm : Imm16) (s : State) : Result :=
  proceed (s.writeReg rt (s.readReg rs ||| zext16 imm))

/-- `XORI rt,rs,imm` (R202). -/
def execXori (rt rs : RegIdx) (imm : Imm16) (s : State) : Result :=
  proceed (s.writeReg rt (s.readReg rs ^^^ zext16 imm))

/-- `LUI rt,imm` (R203). -/
def execLui (rt : RegIdx) (imm : Imm16) (s : State) : Result :=
  proceed (s.writeReg rt (zext16 imm <<< 16))

/-- `SLL rd,rt,sa` (R205). -/
def execSll (rd rt : RegIdx) (sa : BitVec 5) (s : State) : Result :=
  proceed (s.writeReg rd (s.readReg rt <<< sa.toNat))

/-- `SRL rd,rt,sa` (R206). -/
def execSrl (rd rt : RegIdx) (sa : BitVec 5) (s : State) : Result :=
  proceed (s.writeReg rd (s.readReg rt >>> sa.toNat))

/-- `SRA rd,rt,sa` (R207). -/
def execSra (rd rt : RegIdx) (sa : BitVec 5) (s : State) : Result :=
  proceed (s.writeReg rd ((s.readReg rt).sshiftRight sa.toNat))

/-- `SLLV rd,rt,rs` (R208). -/
def execSllv (rd rt rs : RegIdx) (s : State) : Result :=
  proceed (s.writeReg rd (s.readReg rt <<< variableAmount (s.readReg rs)))

/-- `SRLV rd,rt,rs` (R209). -/
def execSrlv (rd rt rs : RegIdx) (s : State) : Result :=
  proceed (s.writeReg rd (s.readReg rt >>> variableAmount (s.readReg rs)))

/-- `SRAV rd,rt,rs` (R210). -/
def execSrav (rd rt rs : RegIdx) (s : State) : Result :=
  proceed (s.writeReg rd ((s.readReg rt).sshiftRight (variableAmount (s.readReg rs))))

/-- `SLT rd,rs,rt` (R211). -/
def execSlt (rd rs rt : RegIdx) (s : State) : Result :=
  proceed (s.writeReg rd (boolWord (decide (signed (s.readReg rs) < signed (s.readReg rt)))))

/-- `SLTU rd,rs,rt` (R212). -/
def execSltu (rd rs rt : RegIdx) (s : State) : Result :=
  proceed (s.writeReg rd (boolWord (decide ((s.readReg rs).toNat < (s.readReg rt).toNat))))

/-- `SLTI rt,rs,imm` (R213). -/
def execSlti (rt rs : RegIdx) (imm : Imm16) (s : State) : Result :=
  proceed (s.writeReg rt (boolWord (decide (signed (s.readReg rs) < signed (sext16 imm)))))

/-- `SLTIU rt,rs,imm` (R214): sign-extended, then compared unsigned. -/
def execSltiu (rt rs : RegIdx) (imm : Imm16) (s : State) : Result :=
  proceed (s.writeReg rt (boolWord (decide ((s.readReg rs).toNat < (sext16 imm).toNat))))

end Sys2Proof.Machine
end

