-- ==== Sys2Proof/Machine/MulDiv.lean ====
section
/-! DEFINITION. Multiply, divide and the hi/lo moves (45_muldiv.md). -/

namespace Sys2Proof.Machine

/-- `p[63:32]` of a product taken modulo 2^64 (R165). -/
def productHi (p : Int) : Word := (BitVec.ofInt 64 p).extractLsb' 32 32

/-- `p[31:0]` of a product taken modulo 2^64 (R165). -/
def productLo (p : Int) : Word := (BitVec.ofInt 64 p).extractLsb' 0 32

/-- The exact signed product. -/
def signedProduct (s : State) (rs rt : RegIdx) : Int := signed (s.readReg rs) * signed (s.readReg rt)

/-- `MULT rs,rt` (R166). -/
def execMult (rs rt : RegIdx) (s : State) : Result :=
  let p := signedProduct s rs rt
  proceed (s.setHiLo (productHi p) (productLo p))

/-- `MULTU rs,rt` (R167). -/
def execMultu (rs rt : RegIdx) (s : State) : Result :=
  let p : Int := (s.readReg rs).toNat * (s.readReg rt).toNat
  proceed (s.setHiLo (productHi p) (productLo p))

/-- `MUL rd,rs,rt` (R168): `hi` and `lo` are written under MUL_WRITES_HILO. -/
def execMul (rd rs rt : RegIdx) (s : State) : Result :=
  let p := signedProduct s rs rt
  let s' := if s.config.mulWritesHiLo then s.setHiLo (productHi p) (productLo p) else s
  proceed (s'.writeReg rd (productLo p))

/-- A zero divisor (R171). -/
def divideByZero (s : State) : Result :=
  match s.config.divCorner with
  | .engineError => raiseEngineError .divideByZero s
  | .mipsValues => proceed s.drawHiLo

/-- The pair -2^31 / -1 (R171). -/
def divideOverflow (s : State) : Result :=
  match s.config.divCorner with
  | .engineError => raiseEngineError .divideOverflow s
  | .mipsValues => proceed (s.setHiLo 0#32 0x80000000#32)

/-- `DIV rs,rt` (R169): quotient rounded toward zero to `lo`, remainder to `hi`. -/
def execDiv (rs rt : RegIdx) (s : State) : Result :=
  let a := signed (s.readReg rs)
  let b := signed (s.readReg rt)
  if b = 0 then divideByZero s
  else if a = -(2 ^ 31) ∧ b = -1 then divideOverflow s
  else
    let q := a.tdiv b
    proceed (s.setHiLo (u32 (a - q * b)) (u32 q))

/-- `DIVU rs,rt` (R170). -/
def execDivu (rs rt : RegIdx) (s : State) : Result :=
  let a := (s.readReg rs).toNat
  let b := (s.readReg rt).toNat
  if b = 0 then divideByZero s
  else proceed (s.setHiLo (BitVec.ofNat 32 (a % b)) (BitVec.ofNat 32 (a / b)))

/-- `MFHI rd` (R172). -/
def execMfhi (rd : RegIdx) (s : State) : Result := proceed (s.writeReg rd s.hi)

/-- `MFLO rd` (R173). -/
def execMflo (rd : RegIdx) (s : State) : Result := proceed (s.writeReg rd s.lo)

/-- `MTHI rs` (R174). -/
def execMthi (rs : RegIdx) (s : State) : Result := proceed (s.setHi (s.readReg rs))

/-- `MTLO rs` (R175). -/
def execMtlo (rs : RegIdx) (s : State) : Result := proceed (s.setLo (s.readReg rs))

end Sys2Proof.Machine
end

