-- ==== Sys2Proof/Machine/System.lean ====
section
/-! DEFINITION. SYSCALL and its five services, BREAK, TEQ, and the execution of `Unknown` (46_system.md). -/

namespace Sys2Proof.Machine

/-- Service 1, print integer (R183). -/
def servicePrintInt (s : State) : Result := proceed (s.emit (.printInt (signed (s.readReg 4#5))))

/-- The scan of service 4 (R184) from address `a` over the `fuel` bytes up to the top of memory: the bytes before
the first zero byte, `none` when there is none. -/
def scanString (m : Memory) : Nat → Nat → Option (List Byte)
  | 0, _ => none
  | fuel + 1, a => if m.read a = 0#8 then some [] else (scanString m fuel (a + 1)).map (m.read a :: ·)

/-- Service 4, print string (R184). -/
def servicePrintString (s : State) : Result :=
  let a := (s.readReg 4#5).toNat
  match scanString s.mem (2 ^ 32 - a) a with
  | some bs => proceed (s.emit (.printString bs))
  | none => raiseEngineError .unterminatedString s

/-- Service 5, read integer (R185). -/
def serviceReadInt (s : State) : Result :=
  match s.drawInt.1 with
  | some v => proceed (s.drawInt.2.writeReg 2#5 v)
  | none => raiseEngineError .badInput s

/-- What service 8 takes of a delivery (R186): at most `max` bytes, ending at a newline, which is kept or
dropped by READ_STRING_KEEPS_NEWLINE. -/
def acceptLine (keep : Bool) : List Byte → Nat → List Byte
  | _, 0 => []
  | [], _ + 1 => []
  | b :: bs, max + 1 =>
    if b = 0x0A#8 then (if keep then [b] else []) else b :: acceptLine keep bs max

/-- Service 8, read string (R186): the checks come before the first write. -/
def serviceReadString (s : State) : Result :=
  let bs := acceptLine s.config.readStringKeepsNewline s.drawLine.1 ((s.readReg 5#5).toNat - 1)
  if s.readReg 5#5 = 0#32 then raiseEngineError .readStringZeroLength s
  else if (s.readReg 4#5).toNat + bs.length > 0xFFFFFFFF then raiseEngineError .addressOverflow s
  else proceed (s.drawLine.2.setMem (s.mem.setBytes (s.readReg 4#5) (bs ++ [0#8])))

/-- Service 10, exit (R187). -/
def serviceExit (s : State) : Result := raiseExit s

/-- `SYSCALL` (R181): the whole of `x[2]` is compared. -/
def execSyscall (s : State) : Result :=
  let n := s.readReg 2#5
  if n = 1#32 then servicePrintInt s
  else if n = 4#32 then servicePrintString s
  else if n = 5#32 then serviceReadInt s
  else if n = 8#32 then serviceReadString s
  else if n = 10#32 then serviceExit s
  else raiseEngineError (.unknownSyscall n) s

/-- `BREAK` (R188). -/
def execBreak (s : State) : Result := raiseBreakpoint s

/-- `TEQ rs,rt` (R189). -/
def execTeq (rs rt : RegIdx) (s : State) : Result :=
  if s.readReg rs = s.readReg rt then raiseTrap .trapOnEqual s else proceed s

/-- Executing `Unknown(word)` (R190). -/
def execUnknown (word : Word) (s : State) : Result := raiseEngineError (.unknownInstruction word) s

end Sys2Proof.Machine
end

