-- ==== Sys2Proof/Machine/Unaligned.lean ====
section
/-! DEFINITION. Partial-word loads and stores (44_unaligned.md). `k` is the byte of the aligned word that the
effective address names; `t` is the register, `w` the aligned word. -/

namespace Sys2Proof.Machine

/-- The register LWL leaves (R157). -/
def mergeLwl (k : Nat) (t w : Word) : Word :=
  let sh := 8 * (3 - k)
  (w <<< sh) ||| (t &&& BitVec.ofNat 32 (2 ^ sh - 1))

/-- The register LWR leaves (R158). -/
def mergeLwr (k : Nat) (t w : Word) : Word :=
  let sh := 8 * k
  (w >>> sh) ||| (t &&& ~~~(0xFFFFFFFF#32 >>> sh))

/-- The aligned word SWL leaves (R159). -/
def mergeSwl (k : Nat) (t w : Word) : Word :=
  let sh := 8 * (3 - k)
  (t >>> sh) ||| (w &&& ~~~(0xFFFFFFFF#32 >>> sh))

/-- The aligned word SWR leaves (R160). -/
def mergeSwr (k : Nat) (t w : Word) : Word :=
  let sh := 8 * k
  (t <<< sh) ||| (w &&& BitVec.ofNat 32 (2 ^ sh - 1))

/-- `LWL rt,offset(rs)` (R157). -/
def execLwl (rt rs : RegIdx) (imm : Imm16) (s : State) : Result :=
  let ea := effectiveAddress s rs imm
  proceed (s.writeReg rt (mergeLwl (byteInWord ea) (s.readReg rt) (s.mem.getWord (alignedBase ea))))

/-- `LWR rt,offset(rs)` (R158). -/
def execLwr (rt rs : RegIdx) (imm : Imm16) (s : State) : Result :=
  let ea := effectiveAddress s rs imm
  proceed (s.writeReg rt (mergeLwr (byteInWord ea) (s.readReg rt) (s.mem.getWord (alignedBase ea))))

/-- `SWL rt,offset(rs)` (R159). -/
def execSwl (rt rs : RegIdx) (imm : Imm16) (s : State) : Result :=
  let ea := effectiveAddress s rs imm
  let a := alignedBase ea
  proceed (s.setMem (s.mem.setWord a (mergeSwl (byteInWord ea) (s.readReg rt) (s.mem.getWord a))))

/-- `SWR rt,offset(rs)` (R160). -/
def execSwr (rt rs : RegIdx) (imm : Imm16) (s : State) : Result :=
  let ea := effectiveAddress s rs imm
  let a := alignedBase ea
  proceed (s.setMem (s.mem.setWord a (mergeSwr (byteInWord ea) (s.readReg rt) (s.mem.getWord a))))

end Sys2Proof.Machine
end

