-- ==== Sys2Proof/Machine/Step.lean ====
section
/-! DEFINITION. One step (50_step_cycle.md R221), and an instruction placed where the next step fetches. -/

namespace Sys2Proof.Machine

/-- Execute what the decoder gave (50_step_cycle.md R221). -/
def execDecoded (d : Decoded) (s : State) : Host.Outcome State Fault Refusal :=
  match d with
  | .instr i => exec i s
  | .unknown word => execUnknown word s

/-- After execution: a pending breakpoint is re-armed, but not when the step ended in an engine error
(50_step_cycle.md R221, R223 (d), (e)). -/
def finishStep : Host.Outcome State Fault Refusal → Host.Outcome State Fault Refusal
  | .next s =>
    match s.runState with
    | .failed _ => .next s
    | .running | .paused | .halted => .next s.rearm
  | .fault r => .fault r
  | .refused r => .refused r

/-- The step in `Running` or `Paused` (50_step_cycle.md R221): the breakpoint test comes before the fetch (R222). -/
def stepActive (s : State) : Host.Outcome State Fault Refusal :=
  if s.pc ∈ s.breakpoints then .next s.breakpointStop
  else if accessFits s.pc 4 then finishStep (execDecoded (decode s.config s.fetchWord) s)
  else .refused .fetchPastTop

/-- `step()` (50_step_cycle.md R221); no step is taken in `Halted` or `Failed` (R236). -/
def step (s : State) : Host.Outcome State Fault Refusal :=
  match s.runState with
  | .running | .paused => stepActive s
  | .halted => .fault .halted
  | .failed kind => .fault (.failed kind)

/-- `s` with the word `w` (its bits from `nbits` up taken as 0) stored at `pc`, no breakpoint armed there, and a
machine that takes steps: the next step fetches and runs it (log 2). -/
def State.withFetchWord (s : State) (nbits w : Nat) : State :=
  { s with
    mem := s.mem.setWord s.pc (tableWord nbits w)
    breakpoints := BreakSet.erase s.breakpoints s.pc
    runState :=
      match s.runState with
      | .running => .running
      | .paused | .halted | .failed _ => .paused }

end Sys2Proof.Machine
end

