-- ==== Sys2Proof/Machine/Debug.lean ====
section
/-! DEFINITION. The debug port (50_step_cycle.md R240 to R242), used between steps only. It does not write `pc`,
`npc`, `hi` or `lo`, and does not read `npc`. An error is returned to the caller and changes no state
(60_exceptions.md R263). -/

namespace Sys2Proof.Machine

/-- A register index in range, or the engine error (10_state.md R25). -/
def debugIndex (i : Nat) : Except EngineError RegIdx :=
  if i < 32 then .ok (BitVec.ofNat 5 i) else .error (.registerIndexOutOfRange i)

/-- `get_register(i)`. -/
def debugGetRegister (s : State) (i : Nat) : Except EngineError Word :=
  match debugIndex i with
  | .ok r => .ok (s.readReg r)
  | .error k => .error k

/-- `set_register(i, v)`; for register 0 a no-op (10_state.md R22). -/
def debugSetRegister (s : State) (i : Nat) (v : Word) : Except EngineError State :=
  match debugIndex i with
  | .ok r => .ok (s.writeReg r v)
  | .error k => .error k

/-- Read of `pc`. -/
def debugPc (s : State) : Word := s.pc

/-- Read of `hi`. -/
def debugHi (s : State) : Word := s.hi

/-- Read of `lo`. -/
def debugLo (s : State) : Word := s.lo

/-- `get_byte(a)` at the port. -/
def debugGetByte (s : State) (a : Word) : Byte := s.mem.getByte a

/-- `get_half_word(a)` at the port; past the top it is `AddressOverflow` (20_memory.md R56). -/
def debugGetHalf (s : State) (a : Word) : Except EngineError (BitVec 16) :=
  if accessFits a 2 then .ok (s.mem.getHalf a) else .error .addressOverflow

/-- `get_word(a)` at the port; past the top it is `AddressOverflow` (20_memory.md R56). -/
def debugGetWord (s : State) (a : Word) : Except EngineError Word :=
  if accessFits a 4 then .ok (s.mem.getWord a) else .error .addressOverflow

/-- `set_byte(a, v)` at the port. -/
def debugSetByte (s : State) (a : Word) (v : Byte) : State := { s with mem := s.mem.setByte a v }

/-- `set_half_word(a, v)` at the port. -/
def debugSetHalf (s : State) (a : Word) (v : BitVec 16) : Except EngineError State :=
  if accessFits a 2 then .ok { s with mem := s.mem.setHalf a v } else .error .addressOverflow

/-- `set_word(a, v)` at the port. -/
def debugSetWord (s : State) (a v : Word) : Except EngineError State :=
  if accessFits a 4 then .ok { s with mem := s.mem.setWord a v } else .error .addressOverflow

/-- `add_or_remove_breakpoint(addr)` (50_step_cycle.md R241): it toggles membership and leaves `pending_rearm`. -/
def toggleBreakpoint (s : State) (a : Word) : State :=
  { s with
    breakpoints :=
      if a ∈ s.breakpoints then BreakSet.erase s.breakpoints a else BreakSet.insert s.breakpoints a }

/-- The clone operation (50_step_cycle.md R242): a copy of the complete state, the two hidden items included. -/
def cloneState (s : State) : State := s

/-- Restoring a clone: the block is in exactly the clone's state, every item of 10_state.md R20 (50_step_cycle.md
R242; "restart", 70_reset_and_hazards.md R285). What is not the block's goes on from `current`: the spec is silent on
it. The record of the last stop, the reports, the outputs and the inputs fixed in advance stay as they are, and the
draw counter moves on, so that draws after a restore are fresh and a failed one is not taken again. DESIGN CHOICE,
log 18. -/
def restoreClone (clone current : State) : State :=
  { cloneState clone with
    lastStop := current.lastStop
    reports := current.reports
    outputs := current.outputs
    intInputs := current.intInputs
    lineInputs := current.lineInputs
    draws := current.draws + 1 }

end Sys2Proof.Machine
end

