-- ==== Sys2Proof/Machine/Reset.lean ====
section
/-! DEFINITION. The reset port: the Loader's policy (70_reset_and_hazards.md R281 to R285). -/

namespace Sys2Proof.Machine

/-- A program-header segment as the external parser gives it (R281). -/
structure Segment where
  kind : Nat
  addr : Word
  bytes : List Byte
deriving DecidableEq, Repr

/-- The parsed file at the reset port (R281). -/
structure ElfInput where
  elfType : Nat
  machine : Nat
  rawEntry : Word
  segments : List Segment
deriving DecidableEq, Repr

/-- `ET_EXEC` (R283). -/
def etExec : Nat := 2

/-- `EM_MIPS` (R283). -/
def emMips : Nat := 8

/-- `PT_LOAD` (R283). -/
def ptLoad : Nat := 1

/-- A loadable segment's bytes lie inside the address space; `addr + length = 2^32` is accepted (R281, R282). -/
def Segment.fits (g : Segment) : Bool := g.kind != ptLoad || accessFits g.addr g.bytes.length

/-- One segment copied into the new memory; only PT_LOAD segments are (R282). -/
def loadSegment (m : Memory) (g : Segment) : Memory :=
  if g.kind = ptLoad then m.setBytes g.addr g.bytes else m

/-- The image: zero everywhere, then the segments in program-header order, later ones over earlier ones (R282). -/
def loadImage (segments : List Segment) : Memory := segments.foldl loadSegment []

/-- `entry = raw_entry - (raw_entry mod 4)` (R281; 10_state.md R46). -/
def entryOf (rawEntry : Word) : Word := rawEntry - BitVec.ofNat 32 (rawEntry.toNat % 4)

/-- The state after a successful reset (R281). The model's own records are cleared with the run they belong to;
the parameters and the environment's inputs are not the block's and stay; a failed draw of the run before is not
taken again, so the counter moves on (log 13). -/
def State.afterReset (s : State) (elf : ElfInput) : State :=
  { s with
    regs := Vector.replicate 31 0#32
    hi := 0
    lo := 0
    mem := loadImage elf.segments
    pc := entryOf elf.rawEntry
    npc := entryOf elf.rawEntry + 4#32
    breakpoints := []
    pendingRearm := none
    runState := .paused
    lastStop := none
    reports := []
    outputs := []
    draws := s.draws + 1 }

/-- `Reset(elf)` (R281): all checks come before any state is written; on an error the caller keeps the state it
has (R283). -/
def resetPort (elf : ElfInput) (s : State) : Except EngineError State :=
  if elf.elfType ≠ etExec then .error .notExecutable
  else if elf.machine ≠ emMips then .error .notMips
  else if elf.segments.all Segment.fits then .ok (s.afterReset elf)
  else .error .segmentOverflow

end Sys2Proof.Machine
end

