-- ==== Sys2Proof/Machine/Run.lean ====
section
/-! DEFINITION. Run control (50_step_cycle.md R231 to R236). A run may go on for ever (R233), so it takes fuel. -/

namespace Sys2Proof.Machine

/-- What `run` returns (R231): a signal, nothing in single-step mode, or the unrecoverable error. It never
returns a trap (R232). -/
inductive RunReturn where
  | breakpoint (addr : Word)
  | exit
  | completed
  | error (kind : EngineError)
deriving DecidableEq, Repr

/-- A call of `run` under fuel: it returned, it is still running, or a step of it has no meaning here. -/
inductive RunOutcome where
  | returned (r : RunReturn) (s : State)
  | stillRunning (s : State)
  | stuck (f : Fault)
  | refused (r : Refusal)
deriving DecidableEq, Repr

/-- `run_state <- Paused`. -/
def State.pause (s : State) : State := { s with runState := .paused }

/-- The loop of `run` (R231). -/
def runLoop (singleStep : Bool) : Nat → State → RunOutcome
  | 0, s => .stillRunning s
  | fuel + 1, s =>
    match step s with
    | .fault f => .stuck f
    | .refused r => .refused r
    | .next s' =>
      match s'.lastStop with
      | some (.breakpoint a) => .returned (.breakpoint a) s'.pause
      | some .exit => .returned .exit s'
      | some (.engineError k) => .returned (.error k) s'
      | none => if singleStep then .returned .completed s'.pause else runLoop singleStep fuel s'

/-- `run(single_step)` (R231): at once, and changing nothing, in `Halted` and `Failed` (R236). -/
def run (singleStep : Bool) (fuel : Nat) (s : State) : RunOutcome :=
  match s.runState with
  | .halted => .returned .exit s
  | .failed k => .returned (.error k) s
  | .running | .paused => runLoop singleStep fuel { s with runState := .running }

end Sys2Proof.Machine
end

