-- ==== Sys2Proof/Safety.lean ====
section
/-! DEFINITION. What a good state is, and the terms the statements use: what a step wrote and what it left. -/

namespace Sys2Proof.Machine

/-! ## Good states -/

/-- `pc` and `npc` are multiples of 4 (10_state.md R32), but under JR_MISALIGNED_POLICY = as_is, which drops the
invariant (41_branch_jump.md R130). -/
abbrev State.Aligned (s : State) : Prop :=
  s.config.jrMisaligned ≠ .asIs → s.pc.toNat % 4 = 0 ∧ s.npc.toNat % 4 = 0

/-- The invariant every step keeps: canonical memory and breakpoint set, aligned `pc` and `npc`. -/
abbrev State.Inv (s : State) : Prop :=
  s.mem.wf = true ∧ BreakSet.wf s.breakpoints = true ∧ s.Aligned

/-- The machine takes steps (50_step_cycle.md R221). -/
abbrev State.Active (s : State) : Prop := s.runState = .running ∨ s.runState = .paused

/-- The machine has failed (10_state.md R38). -/
abbrev State.HasFailed (s : State) : Prop := ∃ k, s.runState = .failed k

/-- The mark 60_exceptions.md R257 asks of a model: no trap has been reported on the run. -/
abbrev State.NoTrapReported (s : State) : Prop := s.reports = []

/-! ## What changed and what did not -/

/-- Every general register reads as before. -/
def SameRegs (s t : State) : Prop := ∀ r, t.readReg r = s.readReg r

/-- `x[rd]` reads `v`, or nothing is written when `rd` is 0; every other register reads as before
(10_state.md R22). -/
def OneReg (s t : State) (rd : RegIdx) (v : Word) : Prop :=
  ∀ r, t.readReg r = if r = rd ∧ rd ≠ 0#5 then v else s.readReg r

/-- `hi` and `lo` are as before. -/
def SameHiLo (s t : State) : Prop := t.hi = s.hi ∧ t.lo = s.lo

/-- Every byte of memory reads as before. -/
def SameMem (s t : State) : Prop := ∀ a, t.mem.getByte a = s.mem.getByte a

/-- The byte at `a + k` reads `bs[k]`, for every `k` below the length, and every other byte reads as before. -/
def BytesStored (s t : State) (a : Word) (bs : List Byte) : Prop :=
  (∀ k (h : k < bs.length), t.mem.getByte (a + BitVec.ofNat 32 k) = bs[k]) ∧
  ∀ b, (∀ k < bs.length, b ≠ a + BitVec.ofNat 32 k) → t.mem.getByte b = s.mem.getByte b

/-- The breakpoint set, the pending slot and the parameters are as before. -/
def SameControl (s t : State) : Prop :=
  t.breakpoints = s.breakpoints ∧ t.pendingRearm = s.pendingRearm ∧ t.config = s.config

/-- The step went on: the run state is as before and no stop was returned. -/
def WentOn (s t : State) : Prop := t.runState = s.runState ∧ t.lastStop = none

/-- Nothing passed the environment port. -/
def SameEnv (s t : State) : Prop :=
  t.outputs = s.outputs ∧ t.intInputs = s.intInputs ∧ t.lineInputs = s.lineInputs ∧ t.draws = s.draws

/-- No trap was reported, nothing passed the environment port, the machine went on. -/
def Quiet (s t : State) : Prop := SameControl s t ∧ WentOn s t ∧ SameEnv s t ∧ t.reports = s.reports

/-- `pc <- npc_old`, `npc <- u32(npc_old + 4)` (50_step_cycle.md R225). -/
def Sequential (s t : State) : Prop := t.pc = s.npc ∧ t.npc.toNat = (s.npc.toNat + 4) % 2 ^ 32

/-- `pc <- npc_old`, `npc <- target` (50_step_cycle.md R224). -/
def Transferred (s t : State) (target : Word) : Prop := t.pc = s.npc ∧ t.npc = target

/-- The whole effect of an instruction that writes `v` to `x[rd]` and ends with `next`. -/
def RegisterWritten (s t : State) (rd : RegIdx) (v : Word) : Prop :=
  OneReg s t rd v ∧ SameHiLo s t ∧ SameMem s t ∧ Sequential s t ∧ Quiet s t

/-- The whole effect of an instruction that writes `hi` and `lo` and ends with `next`. -/
def HiLoWritten (s t : State) (h l : Word) : Prop :=
  t.hi = h ∧ t.lo = l ∧ SameRegs s t ∧ SameMem s t ∧ Sequential s t ∧ Quiet s t

/-- The whole effect of an instruction that leaves any value in `hi` and `lo` and ends with `next`: nothing is said
of the two. -/
def OnlyHiLoFree (s t : State) : Prop :=
  SameRegs s t ∧ SameMem s t ∧ Sequential s t ∧ SameControl s t ∧ WentOn s t ∧ t.reports = s.reports ∧
  t.outputs = s.outputs ∧ t.intInputs = s.intInputs ∧ t.lineInputs = s.lineInputs

/-- The whole effect of an instruction that stores `bs` from `a` on and ends with `next`. -/
def MemoryStored (s t : State) (a : Word) (bs : List Byte) : Prop :=
  BytesStored s t a bs ∧ SameRegs s t ∧ SameHiLo s t ∧ Sequential s t ∧ Quiet s t

/-- The whole effect of an instruction that only moves control. -/
def OnlyTransferred (s t : State) (target : Word) : Prop :=
  Transferred s t target ∧ SameRegs s t ∧ SameHiLo s t ∧ SameMem s t ∧ Quiet s t

/-- The whole effect of an instruction that writes the link value `u32(pc + 8)` to `x[rd]` and moves control. -/
def LinkedAndTransferred (s t : State) (rd : RegIdx) (target : Word) : Prop :=
  Transferred s t target ∧ OneReg s t rd (u32 (s.pc.toNat + 8)) ∧ SameHiLo s t ∧ SameMem s t ∧ Quiet s t

/-- The whole effect of a trap (60_exceptions.md R253, R255): one report, and control goes on as for `next`. -/
def TrapTaken (s t : State) (cause : TrapCause) : Prop :=
  t.reports = s.reports ++ [⟨s.pc, cause⟩] ∧ Sequential s t ∧
  SameRegs s t ∧ SameHiLo s t ∧ SameMem s t ∧ SameControl s t ∧ WentOn s t ∧ SameEnv s t

/-- The whole effect of a service that prints `o` and ends with `next` (46_system.md R182 to R184). -/
def Printed (s t : State) (o : EnvOutput) : Prop :=
  t.outputs = s.outputs ++ [o] ∧ Sequential s t ∧ SameRegs s t ∧ SameHiLo s t ∧ SameMem s t ∧ SameControl s t ∧
  WentOn s t ∧ t.reports = s.reports ∧ t.intInputs = s.intInputs ∧ t.lineInputs = s.lineInputs ∧ t.draws = s.draws

/-- The whole effect of an engine error (60_exceptions.md R263), as the state it leaves. -/
def State.failedWith (s : State) (kind : EngineError) : State :=
  { s with runState := .failed kind, lastStop := some (.engineError kind) }

/-- The whole effect of service 8 on the delivery `line` (46_system.md R186), `rest` being the deliveries fixed in
advance that are left. -/
def LineRead (s : State) (line : List Byte) (rest : List (List Byte)) : Prop :=
  ∀ bs, bs = acceptLine s.config.readStringKeepsNewline line ((s.readReg 5#5).toNat - 1) →
    bs.length ≤ (s.readReg 5#5).toNat - 1 ∧ bs <+: line ∧
    ((s.readReg 4#5).toNat + bs.length ≤ 0xFFFFFFFF →
      ∃ t, exec .syscall s = .next t ∧ BytesStored s t (s.readReg 4#5) (bs ++ [0#8]) ∧
        Sequential s t ∧ SameRegs s t ∧ SameHiLo s t ∧ SameControl s t ∧ WentOn s t ∧
        t.reports = s.reports ∧ t.outputs = s.outputs ∧ t.intInputs = s.intInputs ∧ t.lineInputs = rest) ∧
    ((s.readReg 4#5).toNat + bs.length > 0xFFFFFFFF → exec .syscall s = .next (s.failedWith .addressOverflow))

/-- The whole effect of service 5 when the read delivers `v` (46_system.md R185), `rest` being the answers fixed in
advance that are left. -/
def IntegerRead (s : State) (v : Word) (rest : List (Option Word)) : Prop :=
  ∃ t, exec .syscall s = .next t ∧ OneReg s t 2#5 v ∧ Sequential s t ∧ SameHiLo s t ∧ SameMem s t ∧
    SameControl s t ∧ WentOn s t ∧ t.reports = s.reports ∧ t.outputs = s.outputs ∧ t.lineInputs = s.lineInputs ∧
    t.intInputs = rest

/-! ## Which words and instructions -/

/-- Every machine that has all 60 instructions and ignores unused fields decodes `w` to `i`. -/
def ReadsAs (w : Word) (i : Instr) : Prop :=
  ∀ c : Config, c.includeUnnamedOps = true → c.decodeStrictZeroFields = false → decode c w = .instr i

/-! The merge table of 44_unaligned.md R156, row by row. `k` is `EA & 3`; `T i` is byte `i` of the old register
(`T 0` = bits 7:0), `M i` the byte at the aligned address plus `i`. A word is listed by its bytes 0 to 3, memory by
ascending address, so the register columns of the table read here from right to left. -/

/-- Column LWL. -/
def lwlRow (k : Nat) (T M : Nat → Byte) : Word :=
  match k with
  | 0 => wordOfBytes (T 0) (T 1) (T 2) (M 0)
  | 1 => wordOfBytes (T 0) (T 1) (M 0) (M 1)
  | 2 => wordOfBytes (T 0) (M 0) (M 1) (M 2)
  | _ => wordOfBytes (M 0) (M 1) (M 2) (M 3)

/-- Column LWR. -/
def lwrRow (k : Nat) (T M : Nat → Byte) : Word :=
  match k with
  | 0 => wordOfBytes (M 0) (M 1) (M 2) (M 3)
  | 1 => wordOfBytes (M 1) (M 2) (M 3) (T 3)
  | 2 => wordOfBytes (M 2) (M 3) (T 2) (T 3)
  | _ => wordOfBytes (M 3) (T 1) (T 2) (T 3)

/-- Column SWL. -/
def swlRow (k : Nat) (T M : Nat → Byte) : List Byte :=
  match k with
  | 0 => [T 3, M 1, M 2, M 3]
  | 1 => [T 2, T 3, M 2, M 3]
  | 2 => [T 1, T 2, T 3, M 3]
  | _ => [T 0, T 1, T 2, T 3]

/-- Column SWR. -/
def swrRow (k : Nat) (T M : Nat → Byte) : List Byte :=
  match k with
  | 0 => [T 0, T 1, T 2, T 3]
  | 1 => [M 0, T 0, T 1, T 2]
  | 2 => [M 0, M 1, T 0, T 1]
  | _ => [M 0, M 1, M 2, T 0]

end Sys2Proof.Machine

namespace Sys2Proof

/-- The branches and jumps of 41_branch_jump.md. -/
def Instr.isControlTransfer : Instr → Bool
  | .beq .. | .bne .. | .blez .. | .bgtz .. | .bltz .. | .bgez .. | .bltzal .. | .bgezal ..
  | .j .. | .jal .. | .jr .. | .jalr .. => true
  | .add .. | .addi .. | .sub .. | .addu .. | .addiu .. | .subu ..
  | .lw .. | .lh .. | .lhu .. | .lb .. | .lbu .. | .sw .. | .sh .. | .sb ..
  | .lwl .. | .lwr .. | .swl .. | .swr ..
  | .mult .. | .multu .. | .mul .. | .div .. | .divu .. | .mfhi .. | .mflo .. | .mthi .. | .mtlo ..
  | .syscall | .brk | .teq ..
  | .and .. | .or .. | .xor .. | .nor .. | .andi .. | .ori .. | .xori .. | .lui ..
  | .sll .. | .srl .. | .sra .. | .sllv .. | .srlv .. | .srav ..
  | .slt .. | .sltu .. | .slti .. | .sltiu .. => false

/-- The stores (20_memory.md R54). -/
def Instr.isStore : Instr → Bool
  | .sw .. | .sh .. | .sb .. | .swl .. | .swr .. => true
  | .add .. | .addi .. | .sub .. | .addu .. | .addiu .. | .subu ..
  | .beq .. | .bne .. | .blez .. | .bgtz .. | .bltz .. | .bgez .. | .bltzal .. | .bgezal ..
  | .j .. | .jal .. | .jr .. | .jalr ..
  | .lw .. | .lh .. | .lhu .. | .lb .. | .lbu .. | .lwl .. | .lwr ..
  | .mult .. | .multu .. | .mul .. | .div .. | .divu .. | .mfhi .. | .mflo .. | .mthi .. | .mtlo ..
  | .syscall | .brk | .teq ..
  | .and .. | .or .. | .xor .. | .nor .. | .andi .. | .ori .. | .xori .. | .lui ..
  | .sll .. | .srl .. | .sra .. | .sllv .. | .srlv .. | .srav ..
  | .slt .. | .sltu .. | .slti .. | .sltiu .. => false

/-- The instructions that write `hi` or `lo` (10_state.md R27). -/
def Instr.writesHiLo : Instr → Bool
  | .mult .. | .multu .. | .mul .. | .div .. | .divu .. | .mthi .. | .mtlo .. => true
  | .add .. | .addi .. | .sub .. | .addu .. | .addiu .. | .subu ..
  | .beq .. | .bne .. | .blez .. | .bgtz .. | .bltz .. | .bgez .. | .bltzal .. | .bgezal ..
  | .j .. | .jal .. | .jr .. | .jalr ..
  | .lw .. | .lh .. | .lhu .. | .lb .. | .lbu .. | .sw .. | .sh .. | .sb ..
  | .lwl .. | .lwr .. | .swl .. | .swr .. | .mfhi .. | .mflo ..
  | .syscall | .brk | .teq ..
  | .and .. | .or .. | .xor .. | .nor .. | .andi .. | .ori .. | .xori .. | .lui ..
  | .sll .. | .srl .. | .sra .. | .sllv .. | .srlv .. | .srav ..
  | .slt .. | .sltu .. | .slti .. | .sltiu .. => false

/-- The register an instruction may write: its encoding's destination, or the implicit one (10_state.md R24);
`none` for an instruction that writes no general register. -/
def Instr.destination : Instr → Option RegIdx
  | .add rd .. | .sub rd .. | .addu rd .. | .subu rd .. | .mul rd .. | .mfhi rd | .mflo rd | .jalr rd ..
  | .and rd .. | .or rd .. | .xor rd .. | .nor rd ..
  | .sll rd .. | .srl rd .. | .sra rd .. | .sllv rd .. | .srlv rd .. | .srav rd .. | .slt rd .. | .sltu rd .. =>
    some rd
  | .addi rt .. | .addiu rt .. | .andi rt .. | .ori rt .. | .xori rt .. | .lui rt .. | .slti rt .. | .sltiu rt ..
  | .lw rt .. | .lh rt .. | .lhu rt .. | .lb rt .. | .lbu rt .. | .lwl rt .. | .lwr rt .. => some rt
  | .bltzal .. | .bgezal .. | .jal .. => some 31#5
  | .syscall => some 2#5
  | .beq .. | .bne .. | .blez .. | .bgtz .. | .bltz .. | .bgez .. | .j .. | .jr ..
  | .sw .. | .sh .. | .sb .. | .swl .. | .swr ..
  | .mult .. | .multu .. | .div .. | .divu .. | .mthi .. | .mtlo .. | .brk | .teq .. => none

end Sys2Proof
end

