-- ==== Sys2Proof/Certificates/Slice0/Obligations.lean ====
section
/-! DEFINITION. The statements for the provers. Each docstring names the rules of spec/ it formalises; NOTES.md and
the assumption log name the model's own choices. -/

open Sys2Proof Sys2Proof.Machine

/-! ## Encoding and decoding -/

/-- 30_encoding.md R86 to R93: decoding the word of an instruction the machine has gives it back, with every operand
at every value, under every value of the parameters. -/
def Obligations.DecodeEncodeRoundTrip : Prop :=
  ∀ (c : Config) (i : Instr), i.WellFormed c = true → decode c (encode i) = .instr i

/-- 30_encoding.md R89, R92: a word that decodes to `i` is the word of `i` but for the fields `i` does not use; a
strict decoder accepts it only when the checked ones are 0; the machine has `i`. -/
def Obligations.DecodedWordIsItsEncoding : Prop :=
  ∀ (c : Config) (w : Word) (i : Instr), decode c w = .instr i →
    i.WellFormed c = true ∧
    encode i = w &&& ~~~(i.zeroFieldMask ||| i.codeFieldMask) ∧
    (c.decodeStrictZeroFields = true → w &&& i.zeroFieldMask = 0#32)

/-- 30_encoding.md R96 with R90, R91: with all 60 instructions and unused fields ignored, exactly these words are
`Unknown`, and executing one is the engine error that stops the run. -/
def Obligations.UnknownWordsAreExactlyThese : Prop :=
  ∀ (c : Config) (w : Word), c.includeUnnamedOps = true → c.decodeStrictZeroFields = false →
    (decode c w = .unknown w ↔
      w.toNat / 2 ^ 26 ∈ [0x10, 0x11, 0x12, 0x13, 0x14, 0x15, 0x16, 0x17, 0x18, 0x19, 0x1A, 0x1B, 0x1D, 0x1E, 0x1F,
        0x27, 0x2C, 0x2D, 0x2F, 0x30, 0x31, 0x32, 0x33, 0x34, 0x35, 0x36, 0x37, 0x38, 0x39, 0x3A, 0x3B, 0x3C, 0x3D,
        0x3E, 0x3F] ∨
      (w.toNat / 2 ^ 26 = 0x00 ∧
        w.toNat % 64 ∈ [0x01, 0x05, 0x0A, 0x0B, 0x0E, 0x0F, 0x14, 0x15, 0x16, 0x17, 0x1C, 0x1D, 0x1E, 0x1F, 0x28, 0x29,
          0x2C, 0x2D, 0x2E, 0x2F, 0x30, 0x31, 0x32, 0x33, 0x35, 0x36, 0x37, 0x38, 0x39, 0x3A, 0x3B, 0x3C, 0x3D, 0x3E,
          0x3F]) ∨
      (w.toNat / 2 ^ 26 = 0x1C ∧ w.toNat % 64 ≠ 0x02) ∨
      (w.toNat / 2 ^ 26 = 0x01 ∧ w.toNat / 2 ^ 16 % 32 ∉ [0x00, 0x01, 0x10, 0x11])) ∧
    ∀ s : State, execDecoded (.unknown w) s = .next (s.failedWith (.unknownInstruction w))

/-- 30_encoding.md R87: the all-zero word is `SLL $0,$0,0` on every machine, by the general path. -/
def Obligations.ZeroWordIsTheNop : Prop :=
  (∀ c : Config, decode c 0#32 = .instr (.sll 0#5 0#5 0#5)) ∧
  ∀ s : State, ∃ t, exec (.sll 0#5 0#5 0#5) s = .next t ∧ OnlyTransferred s t (u32 (s.npc.toNat + 4))

/-- 30_encoding.md R89, R92: what the two decoder parameters take away, and that the code fields of SYSCALL, BREAK
and TEQ are never checked. -/
def Obligations.DecoderParameters : Prop :=
  (∀ (c : Config) (i : Instr), c.includeUnnamedOps = false → i.isUnnamed = true →
    decode c (encode i) = .unknown (encode i)) ∧
  (∀ (c c' : Config) (w : Word) (i : Instr), decode c w = .instr i → c'.decodeStrictZeroFields = true →
    w &&& i.zeroFieldMask ≠ 0#32 → decode c' w = .unknown w) ∧
  ∀ (c : Config) (a b d : RegIdx) (e : BitVec 5) (rs rt : RegIdx),
    decode c (packR 0b000000#6 a b d e 0b001100#6) = .instr .syscall ∧
    decode c (packR 0b000000#6 a b d e 0b001101#6) = .instr .brk ∧
    decode c (packR 0b000000#6 rs rt d e 0b110100#6) = .instr (.teq rs rt)

/-- Words written out in 95_test_vectors.md 2.0 and in the instruction rules, at least one of every family, read by
the decoder of the default machine. -/
def Obligations.WordsOfTheSpecDecode : Prop :=
  decodeTableWord 32 0x01095020 = some (.add 10#5 8#5 9#5) ∧
  decodeTableWord 32 0x2508FFFF = some (.addiu 8#5 8#5 0xFFFF#16) ∧
  decodeTableWord 32 0x05700002 = some (.bltzal 11#5 2#16) ∧
  decodeTableWord 32 0x1500FFFD = some (.bne 8#5 0#5 0xFFFD#16) ∧
  decodeTableWord 32 0x0C100008 = some (.jal 0x0100008#26) ∧
  decodeTableWord 32 0x0320F809 = some (.jalr 31#5 25#5) ∧
  decodeTableWord 32 0x8E09FFFC = some (.lw 9#5 16#5 0xFFFC#16) ∧
  decodeTableWord 32 0xA208000D = some (.sb 8#5 16#5 13#16) ∧
  decodeTableWord 32 0x8A2A0003 = some (.lwl 10#5 17#5 3#16) ∧
  decodeTableWord 32 0x714B6002 = some (.mul 12#5 10#5 11#5) ∧
  decodeTableWord 32 0x0085001A = some (.div 4#5 5#5) ∧
  decodeTableWord 32 0x03FFFFCC = some .syscall ∧
  decodeTableWord 32 0x01090034 = some (.teq 8#5 9#5) ∧
  decodeTableWord 32 0x000857C3 = some (.sra 10#5 8#5 31#5) ∧
  decodeTableWord 32 0x3C101001 = some (.lui 16#5 0x1001#16) ∧
  decodeTableWord 32 0xC0000000 = none

/-! ## The step cycle -/

/-- 50_step_cycle.md R221: with no breakpoint at `pc` and the word there inside the address space, a step of an active machine is the execution of
the instruction decoded from the word at `pc`; then a pending breakpoint goes back into the set, unless the
instruction ended in an engine error. -/
def Obligations.StepRunsDecodedInstruction : Prop :=
  ∀ (s t : State) (i : Instr), s.Active → s.pc ∉ s.breakpoints → s.pc.toNat + 4 ≤ 2 ^ 32 →
    decode s.config (s.mem.getWord s.pc) = .instr i → exec i s = .next t →
    (t.HasFailed → step s = .next t) ∧
    (¬ t.HasFailed → t.pendingRearm = none → step s = .next t) ∧
    (¬ t.HasFailed → ∀ a, t.pendingRearm = some a →
      step s = .next { t with breakpoints := BreakSet.insert t.breakpoints a, pendingRearm := none })

/-- 46_system.md R190: a step onto an `Unknown` word ends in the engine error, in a delay slot or not, and changes
nothing else (`failedWith`); `pc` stays at the word. -/
def Obligations.UnknownWordStopsTheRun : Prop :=
  ∀ (s : State) (w : Word), s.Active → s.pc ∉ s.breakpoints → s.pc.toNat + 4 ≤ 2 ^ 32 →
    decode s.config (s.mem.getWord s.pc) = .unknown w →
    w = s.mem.getWord s.pc ∧ step s = .next (s.failedWith (.unknownInstruction w))

/-- 50_step_cycle.md R222: a hit on an armed breakpoint changes the set and the pending slot only. -/
def Obligations.BreakpointHitExecutesNothing : Prop :=
  ∀ s : State, s.Active → s.pc ∈ s.breakpoints →
    ∃ t, step s = .next t ∧
      (∀ a, a ∈ t.breakpoints ↔ a ∈ s.breakpoints ∧ a ≠ s.pc) ∧ t.pendingRearm = some s.pc ∧
      t.lastStop = some (.breakpoint s.pc) ∧
      t.pc = s.pc ∧ t.npc = s.npc ∧ SameRegs s t ∧ SameHiLo s t ∧ SameMem s t ∧
      t.runState = s.runState ∧ t.config = s.config ∧ t.reports = s.reports ∧ SameEnv s t

/-- 50_step_cycle.md R222, R223: the step after a breakpoint stop executes the instruction and re-arms, so that the
breakpoint set is the one before the stop. -/
def Obligations.StepAfterABreakpointStop : Prop :=
  ∀ (s t u : State) (i : Instr), s.Active → s.pc ∈ s.breakpoints → s.pc.toNat + 4 ≤ 2 ^ 32 →
    decode s.config (s.mem.getWord s.pc) = .instr i →
    step s = .next t → exec i t = .next u → ¬ u.HasFailed →
    ∃ v, step t = .next v ∧ v.pendingRearm = none ∧ (∀ a, a ∈ v.breakpoints ↔ a ∈ s.breakpoints) ∧
      v.pc = u.pc ∧ v.npc = u.npc ∧ SameRegs u v ∧ SameHiLo u v ∧ SameMem u v ∧
      v.runState = u.runState ∧ v.lastStop = u.lastStop ∧ v.reports = u.reports ∧ SameEnv u v

/-- 50_step_cycle.md R236 (with R231): no step is taken in `Halted` or `Failed`; `run` returns at once and touches
no state. -/
def Obligations.NoStepWhenHaltedOrFailed : Prop :=
  ∀ (s : State) (single : Bool) (fuel : Nat),
    (s.runState = .halted → step s = .fault .halted ∧ run single fuel s = .returned .exit s) ∧
    ∀ k, s.runState = .failed k → step s = .fault (.failed k) ∧ run single fuel s = .returned (.error k) s

/-- 50_step_cycle.md R220, R221: an active machine takes a step, whatever word is at `pc`. Only under
JR_MISALIGNED_POLICY = as_is can `pc` come so high that the word there runs past the top of memory: that fetch has no
defined result (20_memory.md R56) and the model refuses the step (the model's choice, log 12). -/
def Obligations.ActiveMachineTakesAStep : Prop :=
  (∀ s : State, s.Active → s.Inv → s.config.jrMisaligned ≠ .asIs → ∃ t, step s = .next t) ∧
  ∀ s : State, s.Active → s.pc ∉ s.breakpoints →
    (s.pc.toNat + 4 ≤ 2 ^ 32 → ∃ t, step s = .next t) ∧
    (s.pc.toNat + 4 > 2 ^ 32 → step s = .refused .fetchPastTop)

/-- 50_step_cycle.md R225, R226, R227, as numbers. -/
def Obligations.ControlTransfers : Prop :=
  ∀ s : State,
    (∃ t, proceed s = .next t ∧ t.pc = s.npc ∧ t.npc.toNat = (s.npc.toNat + 4) % 2 ^ 32) ∧
    (∀ imm : Imm16, ∃ t, branchBy (branchOffset imm) s = .next t ∧ t.pc = s.npc ∧
      t.npc = u32 (s.npc.toNat + 4 * imm.toInt) ∧
      signed (branchOffset imm) = 4 * imm.toInt ∧ -131072 ≤ 4 * imm.toInt ∧ 4 * imm.toInt ≤ 131068) ∧
    ∀ index : BitVec 26, ∃ t, jumpIndex index s = .next t ∧ t.pc = s.npc ∧
      t.npc.toNat = s.npc.toNat / 2 ^ 28 * 2 ^ 28 + 4 * index.toNat

/-- 41_branch_jump.md R121; 70_reset_and_hazards.md R290: whatever the instruction, when the step goes on the
instruction at the old `npc` runs next; only a branch or jump makes the one after it anything but the next word. -/
def Obligations.DelaySlotAlwaysRunsNext : Prop :=
  ∀ (i : Instr) (s t : State), exec i s = .next t → t.lastStop = none →
    t.pc = s.npc ∧ (i.isControlTransfer = false → t.npc = u32 (s.npc.toNat + 4))

/-! ## Addition and subtraction -/

/-- 40_arith_overflow.md R111, R112, R113: ADD, ADDI and SUB write the exact signed result, or trap when it does not
fit, whatever the destination. -/
def Obligations.TrappingArithmetic : Prop :=
  ∀ (s : State) (rd rs rt : RegIdx) (sa : BitVec 5) (imm : Imm16),
    (ReadsAs (packR 0b000000#6 rs rt rd sa 0b100000#6) (.add rd rs rt) ∧
      ∀ z : Int, z = signed (s.readReg rs) + signed (s.readReg rt) →
        (-(2 ^ 31) ≤ z ∧ z ≤ 2 ^ 31 - 1 → ∃ t, exec (.add rd rs rt) s = .next t ∧ RegisterWritten s t rd (u32 z)) ∧
        (¬ (-(2 ^ 31) ≤ z ∧ z ≤ 2 ^ 31 - 1) → ∃ t, exec (.add rd rs rt) s = .next t ∧ TrapTaken s t .overflowADD)) ∧
    (ReadsAs (packI 0b001000#6 rs rt imm) (.addi rt rs imm) ∧
      ∀ z : Int, z = signed (s.readReg rs) + imm.toInt →
        (-(2 ^ 31) ≤ z ∧ z ≤ 2 ^ 31 - 1 → ∃ t, exec (.addi rt rs imm) s = .next t ∧ RegisterWritten s t rt (u32 z)) ∧
        (¬ (-(2 ^ 31) ≤ z ∧ z ≤ 2 ^ 31 - 1) →
          ∃ t, exec (.addi rt rs imm) s = .next t ∧ TrapTaken s t .overflowADDI)) ∧
    (ReadsAs (packR 0b000000#6 rs rt rd sa 0b100010#6) (.sub rd rs rt) ∧
      ∀ z : Int, z = signed (s.readReg rs) - signed (s.readReg rt) →
        (-(2 ^ 31) ≤ z ∧ z ≤ 2 ^ 31 - 1 → ∃ t, exec (.sub rd rs rt) s = .next t ∧ RegisterWritten s t rd (u32 z)) ∧
        (¬ (-(2 ^ 31) ≤ z ∧ z ≤ 2 ^ 31 - 1) → ∃ t, exec (.sub rd rs rt) s = .next t ∧ TrapTaken s t .overflowSUB))

/-- 40_arith_overflow.md R114, R115, R116: ADDU, ADDIU and SUBU wrap modulo 2^32 and never trap. -/
def Obligations.WrappingArithmetic : Prop :=
  ∀ (s : State) (rd rs rt : RegIdx) (sa : BitVec 5) (imm : Imm16),
    (ReadsAs (packR 0b000000#6 rs rt rd sa 0b100001#6) (.addu rd rs rt) ∧
      ∃ t, exec (.addu rd rs rt) s = .next t ∧
        RegisterWritten s t rd (u32 ((s.readReg rs).toNat + (s.readReg rt).toNat))) ∧
    (ReadsAs (packI 0b001001#6 rs rt imm) (.addiu rt rs imm) ∧
      ∃ t, exec (.addiu rt rs imm) s = .next t ∧ RegisterWritten s t rt (u32 ((s.readReg rs).toNat + imm.toInt))) ∧
    (ReadsAs (packR 0b000000#6 rs rt rd sa 0b100011#6) (.subu rd rs rt) ∧
      ∃ t, exec (.subu rd rs rt) s = .next t ∧
        RegisterWritten s t rd (u32 ((s.readReg rs).toNat - (s.readReg rt).toNat)))

/-- 40_arith_overflow.md R110: the overflow test by sign bits, and that without overflow the trapping and the
wrapping operation give the same 32 bits. -/
def Obligations.OverflowIsASignChange : Prop :=
  ∀ a b : Word,
    (fitsSigned (signed a + signed b) = false ↔ a.msb = b.msb ∧ (u32 (a.toNat + b.toNat)).msb ≠ a.msb) ∧
    (fitsSigned (signed a - signed b) = false ↔ a.msb ≠ b.msb ∧ (u32 (a.toNat - b.toNat)).msb ≠ a.msb) ∧
    u32 (signed a + signed b) = u32 (a.toNat + b.toNat) ∧
    u32 (signed a - signed b) = u32 (a.toNat - b.toNat)

/-! ## Branches and jumps -/

/-- 41_branch_jump.md R120, R122 to R125, R132: BEQ, BNE, BLEZ, BGTZ, BLTZ and BGEZ, taken or not; none traps. -/
def Obligations.ConditionalBranches : Prop :=
  ∀ (s : State) (rs rt : RegIdx) (imm : Imm16),
    (ReadsAs (packI 0b000100#6 rs rt imm) (.beq rs rt imm) ∧
      ∃ t, exec (.beq rs rt imm) s = .next t ∧
        OnlyTransferred s t
          (u32 (s.npc.toNat + if s.readReg rs = s.readReg rt then 4 * imm.toInt else 4))) ∧
    (ReadsAs (packI 0b000101#6 rs rt imm) (.bne rs rt imm) ∧
      ∃ t, exec (.bne rs rt imm) s = .next t ∧
        OnlyTransferred s t
          (u32 (s.npc.toNat + if s.readReg rs ≠ s.readReg rt then 4 * imm.toInt else 4))) ∧
    (ReadsAs (packI 0b000110#6 rs rt imm) (.blez rs imm) ∧
      ∃ t, exec (.blez rs imm) s = .next t ∧
        OnlyTransferred s t (u32 (s.npc.toNat + if signed (s.readReg rs) ≤ 0 then 4 * imm.toInt else 4))) ∧
    (ReadsAs (packI 0b000111#6 rs rt imm) (.bgtz rs imm) ∧
      ∃ t, exec (.bgtz rs imm) s = .next t ∧
        OnlyTransferred s t (u32 (s.npc.toNat + if signed (s.readReg rs) > 0 then 4 * imm.toInt else 4))) ∧
    (ReadsAs (packI 0b000001#6 rs 0b00000#5 imm) (.bltz rs imm) ∧
      ∃ t, exec (.bltz rs imm) s = .next t ∧
        OnlyTransferred s t (u32 (s.npc.toNat + if signed (s.readReg rs) < 0 then 4 * imm.toInt else 4))) ∧
    (ReadsAs (packI 0b000001#6 rs 0b00001#5 imm) (.bgez rs imm) ∧
      ∃ t, exec (.bgez rs imm) s = .next t ∧
        OnlyTransferred s t (u32 (s.npc.toNat + if signed (s.readReg rs) ≥ 0 then 4 * imm.toInt else 4)))

/-- 41_branch_jump.md R126, R127: BLTZAL and BGEZAL write the link whether or not they branch, and test the new
`$31` when `rs` is 31. -/
def Obligations.LinkingBranches : Prop :=
  ∀ (s : State) (rs : RegIdx) (imm : Imm16) (v : Word),
    v = (if rs = 31#5 then u32 (s.pc.toNat + 8) else s.readReg rs) →
    (ReadsAs (packI 0b000001#6 rs 0b10000#5 imm) (.bltzal rs imm) ∧
      ∃ t, exec (.bltzal rs imm) s = .next t ∧
        LinkedAndTransferred s t 31#5 (u32 (s.npc.toNat + if signed v < 0 then 4 * imm.toInt else 4))) ∧
    (ReadsAs (packI 0b000001#6 rs 0b10001#5 imm) (.bgezal rs imm) ∧
      ∃ t, exec (.bgezal rs imm) s = .next t ∧
        LinkedAndTransferred s t 31#5 (u32 (s.npc.toNat + if signed v ≥ 0 then 4 * imm.toInt else 4)))

/-- 41_branch_jump.md R128, R129: J and JAL stay in the 256 MiB region of the delay slot. -/
def Obligations.IndexJumps : Prop :=
  ∀ (s : State) (index : BitVec 26) (target : Word),
    target.toNat = s.npc.toNat / 2 ^ 28 * 2 ^ 28 + 4 * index.toNat →
    (ReadsAs (packJ 0b000010#6 index) (.j index) ∧
      ∃ t, exec (.j index) s = .next t ∧ OnlyTransferred s t target) ∧
    (ReadsAs (packJ 0b000011#6 index) (.jal index) ∧
      ∃ t, exec (.jal index) s = .next t ∧ LinkedAndTransferred s t 31#5 target)

/-- 41_branch_jump.md R130, R131: JR and JALR to a multiple of 4, under every JR_MISALIGNED_POLICY; to another target by
the policy: the engine error and no link, the target rounded down, or the target as it is. JALR reads `rs` before it
writes the link, also when `rd = rs`. -/
def Obligations.RegisterJumps : Prop :=
  ∀ (s : State) (rd rs rt x : RegIdx) (sa : BitVec 5) (v : Word), v = s.readReg rs →
    ReadsAs (packR 0b000000#6 rs rt x sa 0b001000#6) (.jr rs) ∧
    ReadsAs (packR 0b000000#6 rs rt rd sa 0b001001#6) (.jalr rd rs) ∧
    (v.toNat % 4 = 0 ∨ s.config.jrMisaligned = .asIs →
      (∃ t, exec (.jr rs) s = .next t ∧ OnlyTransferred s t v) ∧
      ∃ t, exec (.jalr rd rs) s = .next t ∧ LinkedAndTransferred s t rd v) ∧
    (v.toNat % 4 ≠ 0 → s.config.jrMisaligned = .engineError →
      exec (.jr rs) s = .next (s.failedWith (.misalignedJumpTarget v)) ∧
      exec (.jalr rd rs) s = .next (s.failedWith (.misalignedJumpTarget v))) ∧
    (v.toNat % 4 ≠ 0 → s.config.jrMisaligned = .truncate →
      (∃ t, exec (.jr rs) s = .next t ∧ OnlyTransferred s t (u32 (v.toNat - v.toNat % 4))) ∧
      ∃ t, exec (.jalr rd rs) s = .next t ∧ LinkedAndTransferred s t rd (u32 (v.toNat - v.toNat % 4)))

/-! ## Memory -/

/-- 20_memory.md R57: the effective address wraps modulo 2^32. -/
def Obligations.EffectiveAddressWraps : Prop :=
  ∀ (s : State) (rs : RegIdx) (imm : Imm16),
    effectiveAddress s rs imm = u32 ((s.readReg rs).toNat + imm.toInt)

/-- 20_memory.md R51, R52, R55: little-endian accessors. A word written reads back whole, by bytes and by halves; a
half written likewise; a byte written likewise; nothing else changes. -/
def Obligations.MemoryReadsWhatWasWritten : Prop :=
  ∀ (m : Memory) (a b : Word) (v : Word) (h : BitVec 16) (x : Byte),
    ((m.setByte a x).getByte a = x ∧ (b ≠ a → (m.setByte a x).getByte b = m.getByte b)) ∧
    ((m.setHalf a h).getHalf a = h ∧ (m.setHalf a h).getByte a = BitVec.ofNat 8 h.toNat ∧
      (m.setHalf a h).getByte (a + 1#32) = BitVec.ofNat 8 (h.toNat / 2 ^ 8) ∧
      (b ≠ a → b ≠ a + 1#32 → (m.setHalf a h).getByte b = m.getByte b)) ∧
    ((m.setWord a v).getWord a = v ∧
      (m.setWord a v).getHalf a = BitVec.ofNat 16 v.toNat ∧
      (m.setWord a v).getHalf (a + 2#32) = BitVec.ofNat 16 (v.toNat / 2 ^ 16) ∧
      (∀ k < 4, (m.setWord a v).getByte (a + BitVec.ofNat 32 k) = BitVec.ofNat 8 (v.toNat / 2 ^ (8 * k))) ∧
      ((∀ k < 4, b ≠ a + BitVec.ofNat 32 k) → (m.setWord a v).getByte b = m.getByte b))

/-- 43_load_store.md R141, R143 to R146 (with R58): LW, LH and LHU from an aligned address, and the trap otherwise; LB
and LBU from any address. LH and LB sign-extend, LHU and LBU zero-extend. -/
def Obligations.Loads : Prop :=
  ∀ (s : State) (rt rs : RegIdx) (imm : Imm16) (ea : Word) (b h : Nat),
    ea = effectiveAddress s rs imm →
    b = (s.mem.getByte ea).toNat → h = b + 2 ^ 8 * (s.mem.getByte (ea + 1#32)).toNat →
    (ReadsAs (packI 0b100011#6 rs rt imm) (.lw rt rs imm) ∧
      (ea.toNat % 4 = 0 → ∃ t, exec (.lw rt rs imm) s = .next t ∧
        RegisterWritten s t rt (u32 (h + 2 ^ 16 * (s.mem.getByte (ea + 2#32)).toNat +
          2 ^ 24 * (s.mem.getByte (ea + 3#32)).toNat))) ∧
      (ea.toNat % 4 ≠ 0 → ∃ t, exec (.lw rt rs imm) s = .next t ∧ TrapTaken s t .unalignedWord)) ∧
    (ReadsAs (packI 0b100001#6 rs rt imm) (.lh rt rs imm) ∧
      (ea.toNat % 2 = 0 → ∃ t, exec (.lh rt rs imm) s = .next t ∧
        RegisterWritten s t rt (u32 (if h < 2 ^ 15 then h else h - 2 ^ 16))) ∧
      (ea.toNat % 2 ≠ 0 → ∃ t, exec (.lh rt rs imm) s = .next t ∧ TrapTaken s t .unalignedHalf)) ∧
    (ReadsAs (packI 0b100101#6 rs rt imm) (.lhu rt rs imm) ∧
      (ea.toNat % 2 = 0 → ∃ t, exec (.lhu rt rs imm) s = .next t ∧ RegisterWritten s t rt (u32 h)) ∧
      (ea.toNat % 2 ≠ 0 → ∃ t, exec (.lhu rt rs imm) s = .next t ∧ TrapTaken s t .unalignedHalf)) ∧
    (ReadsAs (packI 0b100000#6 rs rt imm) (.lb rt rs imm) ∧
      ∃ t, exec (.lb rt rs imm) s = .next t ∧
        RegisterWritten s t rt (u32 (if b < 0x80 then b else b + 0xFFFFFF00))) ∧
    (ReadsAs (packI 0b100100#6 rs rt imm) (.lbu rt rs imm) ∧
      ∃ t, exec (.lbu rt rs imm) s = .next t ∧ RegisterWritten s t rt (u32 b))

/-- 43_load_store.md R147, R148, R149 (with R58): SW, SH and SB store the low bytes of `x[rt]` at the effective
address, lowest first, and no other byte changes; a misaligned SW or SH traps and stores nothing. -/
def Obligations.Stores : Prop :=
  ∀ (s : State) (rt rs : RegIdx) (imm : Imm16) (ea : Word) (v : Nat),
    ea = effectiveAddress s rs imm → v = (s.readReg rt).toNat →
    (ReadsAs (packI 0b101011#6 rs rt imm) (.sw rt rs imm) ∧
      (ea.toNat % 4 = 0 → ∃ t, exec (.sw rt rs imm) s = .next t ∧
        MemoryStored s t ea [BitVec.ofNat 8 v, BitVec.ofNat 8 (v / 2 ^ 8), BitVec.ofNat 8 (v / 2 ^ 16),
          BitVec.ofNat 8 (v / 2 ^ 24)]) ∧
      (ea.toNat % 4 ≠ 0 → ∃ t, exec (.sw rt rs imm) s = .next t ∧ TrapTaken s t .unalignedWord)) ∧
    (ReadsAs (packI 0b101001#6 rs rt imm) (.sh rt rs imm) ∧
      (ea.toNat % 2 = 0 → ∃ t, exec (.sh rt rs imm) s = .next t ∧
        MemoryStored s t ea [BitVec.ofNat 8 v, BitVec.ofNat 8 (v / 2 ^ 8)]) ∧
      (ea.toNat % 2 ≠ 0 → ∃ t, exec (.sh rt rs imm) s = .next t ∧ TrapTaken s t .unalignedHalf)) ∧
    (ReadsAs (packI 0b101000#6 rs rt imm) (.sb rt rs imm) ∧
      ∃ t, exec (.sb rt rs imm) s = .next t ∧ MemoryStored s t ea [BitVec.ofNat 8 v])

/-- 44_unaligned.md R156, R157, R158: LWL and LWR merge by the table, at every `k`. -/
def Obligations.PartialLoads : Prop :=
  ∀ (s : State) (rt rs : RegIdx) (imm : Imm16) (ea a : Word),
    ea = effectiveAddress s rs imm → a.toNat = ea.toNat - ea.toNat % 4 →
    (ReadsAs (packI 0b100010#6 rs rt imm) (.lwl rt rs imm) ∧
      ∃ t, exec (.lwl rt rs imm) s = .next t ∧
        RegisterWritten s t rt (lwlRow (ea.toNat % 4) (fun i => BitVec.ofNat 8 ((s.readReg rt).toNat / 2 ^ (8 * i)))
          (fun i => s.mem.getByte (a + BitVec.ofNat 32 i)))) ∧
    (ReadsAs (packI 0b100110#6 rs rt imm) (.lwr rt rs imm) ∧
      ∃ t, exec (.lwr rt rs imm) s = .next t ∧
        RegisterWritten s t rt (lwrRow (ea.toNat % 4) (fun i => BitVec.ofNat 8 ((s.readReg rt).toNat / 2 ^ (8 * i)))
          (fun i => s.mem.getByte (a + BitVec.ofNat 32 i))))

/-- 44_unaligned.md R156, R159, R160: SWL and SWR merge by the table, at every `k`, into the aligned word that holds
the effective address, and no other byte changes. -/
def Obligations.PartialStores : Prop :=
  ∀ (s : State) (rt rs : RegIdx) (imm : Imm16) (ea a : Word),
    ea = effectiveAddress s rs imm → a.toNat = ea.toNat - ea.toNat % 4 →
    (ReadsAs (packI 0b101010#6 rs rt imm) (.swl rt rs imm) ∧
      ∃ t, exec (.swl rt rs imm) s = .next t ∧
        MemoryStored s t a (swlRow (ea.toNat % 4) (fun i => BitVec.ofNat 8 ((s.readReg rt).toNat / 2 ^ (8 * i)))
          (fun i => s.mem.getByte (a + BitVec.ofNat 32 i)))) ∧
    (ReadsAs (packI 0b101110#6 rs rt imm) (.swr rt rs imm) ∧
      ∃ t, exec (.swr rt rs imm) s = .next t ∧
        MemoryStored s t a (swrRow (ea.toNat % 4) (fun i => BitVec.ofNat 8 ((s.readReg rt).toNat / 2 ^ (8 * i)))
          (fun i => s.mem.getByte (a + BitVec.ofNat 32 i))))

/-- 44_unaligned.md R161: SWL at `U + 3` and SWR at `U`, in either order, store the word at `U`, aligned or not, and
change no other byte. -/
def Obligations.UnalignedStorePair : Prop :=
  ∀ (s : State) (rt rs : RegIdx) (hi lo : Imm16) (u : Word),
    effectiveAddress s rs lo = u → effectiveAddress s rs hi = u + 3#32 → u.toNat + 3 ≤ 0xFFFFFFFF →
    (∃ t v, exec (.swl rt rs hi) s = .next t ∧ exec (.swr rt rs lo) t = .next v ∧
      BytesStored s v u ((List.range 4).map fun i => BitVec.ofNat 8 ((s.readReg rt).toNat / 2 ^ (8 * i))) ∧
      SameRegs s v) ∧
    ∃ t v, exec (.swr rt rs lo) s = .next t ∧ exec (.swl rt rs hi) t = .next v ∧
      BytesStored s v u ((List.range 4).map fun i => BitVec.ofNat 8 ((s.readReg rt).toNat / 2 ^ (8 * i))) ∧
      SameRegs s v

/-- 44_unaligned.md R161: LWL at `U + 3` and LWR at `U`, in either order, leave the word at `U` in `x[rt]`, aligned
or not, whatever it held. (`rt` is not the base register: the first load of the pair would change the base.) -/
def Obligations.UnalignedLoadPair : Prop :=
  ∀ (s : State) (rt rs : RegIdx) (hi lo : Imm16) (u : Word), rt ≠ rs →
    effectiveAddress s rs lo = u → effectiveAddress s rs hi = u + 3#32 → u.toNat + 3 ≤ 0xFFFFFFFF →
    (∃ t v, exec (.lwl rt rs hi) s = .next t ∧ exec (.lwr rt rs lo) t = .next v ∧
      OneReg s v rt (s.mem.getWord u) ∧ SameMem s v) ∧
    ∃ t v, exec (.lwr rt rs lo) s = .next t ∧ exec (.lwl rt rs hi) t = .next v ∧
      OneReg s v rt (s.mem.getWord u) ∧ SameMem s v

/-- 20_memory.md R70: a word stored to the address of the next instruction is what the very next step runs. -/
def Obligations.StoreIsSeenByTheNextFetch : Prop :=
  ∀ (s : State) (rt rs : RegIdx) (imm : Imm16) (j : Instr),
    s.Active → s.pc ∉ s.breakpoints → s.npc ∉ s.breakpoints → s.pendingRearm = none →
    s.pc.toNat + 4 ≤ 2 ^ 32 → s.npc.toNat % 4 = 0 →
    decode s.config (s.mem.getWord s.pc) = .instr (.sw rt rs imm) → effectiveAddress s rs imm = s.npc →
    s.readReg rt = encode j → j.WellFormed s.config = true →
    ∃ t, step s = .next t ∧ t.pc = s.npc ∧ t.mem.getWord t.pc = encode j ∧
      ∀ u, exec j t = .next u → step t = .next u

/-! ## Multiply and divide -/

/-- 45_muldiv.md R166, R167: `hi` and `lo` are the two halves of the exact product. -/
def Obligations.Multiplies : Prop :=
  ∀ (s : State) (rs rt rd : RegIdx) (sa : BitVec 5),
    (ReadsAs (packR 0b000000#6 rs rt rd sa 0b011000#6) (.mult rs rt) ∧
      ∃ t h l, exec (.mult rs rt) s = .next t ∧ HiLoWritten s t h l ∧
        signed h * 2 ^ 32 + l.toNat = signed (s.readReg rs) * signed (s.readReg rt)) ∧
    (ReadsAs (packR 0b000000#6 rs rt rd sa 0b011001#6) (.multu rs rt) ∧
      ∃ t h l, exec (.multu rs rt) s = .next t ∧ HiLoWritten s t h l ∧
        h.toNat * 2 ^ 32 + l.toNat = (s.readReg rs).toNat * (s.readReg rt).toNat)

/-- 45_muldiv.md R168: MUL writes the low half to `x[rd]` (the same for signed and unsigned operands), and `hi` and
`lo` under MUL_WRITES_HILO, also when `rd` is 0. -/
def Obligations.MulWritesARegister : Prop :=
  ∀ (s : State) (rd rs rt : RegIdx) (sa : BitVec 5),
    ReadsAs (packR 0b011100#6 rs rt rd sa 0b000010#6) (.mul rd rs rt) ∧
    ∃ t, exec (.mul rd rs rt) s = .next t ∧
      OneReg s t rd (u32 ((s.readReg rs).toNat * (s.readReg rt).toNat)) ∧
      (s.config.mulWritesHiLo = true →
        signed t.hi * 2 ^ 32 + t.lo.toNat = signed (s.readReg rs) * signed (s.readReg rt)) ∧
      (s.config.mulWritesHiLo = false → SameHiLo s t) ∧
      SameMem s t ∧ Sequential s t ∧ Quiet s t

/-- 45_muldiv.md R169: DIV away from its two corners. The quotient `q` and remainder `r` are fixed by
`a = q * b + r`, `|r| < |b|` and the sign of `r`. -/
def Obligations.SignedDivide : Prop :=
  ∀ (s : State) (rs rt rd : RegIdx) (sa : BitVec 5) (a b : Int),
    a = signed (s.readReg rs) → b = signed (s.readReg rt) → b ≠ 0 → ¬ (a = -(2 ^ 31) ∧ b = -1) →
    ReadsAs (packR 0b000000#6 rs rt rd sa 0b011010#6) (.div rs rt) ∧
    ∃ t h l, exec (.div rs rt) s = .next t ∧ HiLoWritten s t h l ∧
      a = signed l * b + signed h ∧ |signed h| < |b| ∧ (signed h = 0 ∨ (0 < signed h ↔ 0 < a))

/-- 45_muldiv.md R170: DIVU by a divisor other than 0. -/
def Obligations.UnsignedDivide : Prop :=
  ∀ (s : State) (rs rt rd : RegIdx) (sa : BitVec 5), s.readReg rt ≠ 0#32 →
    ReadsAs (packR 0b000000#6 rs rt rd sa 0b011011#6) (.divu rs rt) ∧
    ∃ t h l, exec (.divu rs rt) s = .next t ∧ HiLoWritten s t h l ∧
      (s.readReg rs).toNat = l.toNat * (s.readReg rt).toNat + h.toNat ∧ h.toNat < (s.readReg rt).toNat

/-- 45_muldiv.md R171: the corners of division, by DIV_CORNER_POLICY. Under `mips_values` a zero divisor leaves free
values in `hi` and `lo` (nothing is said of them, nor of the values of DIV against those of DIVU) and the
instruction completes. -/
def Obligations.DivisionCorners : Prop :=
  ∀ (s : State) (rs rt : RegIdx),
    (s.readReg rt = 0#32 →
      (s.config.divCorner = .engineError →
        exec (.div rs rt) s = .next (s.failedWith .divideByZero) ∧
        exec (.divu rs rt) s = .next (s.failedWith .divideByZero)) ∧
      (s.config.divCorner = .mipsValues →
        (∃ t, exec (.div rs rt) s = .next t ∧ OnlyHiLoFree s t) ∧
        ∃ t, exec (.divu rs rt) s = .next t ∧ OnlyHiLoFree s t)) ∧
    (s.readReg rs = 0x80000000#32 → s.readReg rt = 0xFFFFFFFF#32 →
      (s.config.divCorner = .engineError → exec (.div rs rt) s = .next (s.failedWith .divideOverflow)) ∧
      (s.config.divCorner = .mipsValues →
        ∃ t, exec (.div rs rt) s = .next t ∧ HiLoWritten s t 0#32 0x80000000#32))

/-- 45_muldiv.md R172 to R175: the moves between a general register and `hi` or `lo`. -/
def Obligations.HiLoMoves : Prop :=
  ∀ (s : State) (rd rs a b : RegIdx) (sa : BitVec 5),
    (ReadsAs (packR 0b000000#6 a b rd sa 0b010000#6) (.mfhi rd) ∧
      ∃ t, exec (.mfhi rd) s = .next t ∧ RegisterWritten s t rd s.hi) ∧
    (ReadsAs (packR 0b000000#6 a b rd sa 0b010010#6) (.mflo rd) ∧
      ∃ t, exec (.mflo rd) s = .next t ∧ RegisterWritten s t rd s.lo) ∧
    (ReadsAs (packR 0b000000#6 rs a b sa 0b010001#6) (.mthi rs) ∧
      ∃ t, exec (.mthi rs) s = .next t ∧ HiLoWritten s t (s.readReg rs) s.lo) ∧
    (ReadsAs (packR 0b000000#6 rs a b sa 0b010011#6) (.mtlo rs) ∧
      ∃ t, exec (.mtlo rs) s = .next t ∧ HiLoWritten s t s.hi (s.readReg rs))

/-! ## Logic, shifts, compares -/

/-- 47_logic_shift_compare.md R196 to R203: AND, OR, XOR and NOR bit by bit; ANDI, ORI and XORI with the immediate
zero-extended; LUI puts it in the upper half. -/
def Obligations.Logic : Prop :=
  ∀ (s : State) (rd rs rt x : RegIdx) (sa : BitVec 5) (imm : Imm16),
    (ReadsAs (packR 0b000000#6 rs rt rd sa 0b100100#6) (.and rd rs rt) ∧
      ∃ t v, exec (.and rd rs rt) s = .next t ∧ RegisterWritten s t rd v ∧
        ∀ n < 32, v.getLsbD n = ((s.readReg rs).getLsbD n && (s.readReg rt).getLsbD n)) ∧
    (ReadsAs (packR 0b000000#6 rs rt rd sa 0b100101#6) (.or rd rs rt) ∧
      ∃ t v, exec (.or rd rs rt) s = .next t ∧ RegisterWritten s t rd v ∧
        ∀ n < 32, v.getLsbD n = ((s.readReg rs).getLsbD n || (s.readReg rt).getLsbD n)) ∧
    (ReadsAs (packR 0b000000#6 rs rt rd sa 0b100110#6) (.xor rd rs rt) ∧
      ∃ t v, exec (.xor rd rs rt) s = .next t ∧ RegisterWritten s t rd v ∧
        ∀ n < 32, v.getLsbD n = ((s.readReg rs).getLsbD n != (s.readReg rt).getLsbD n)) ∧
    (ReadsAs (packR 0b000000#6 rs rt rd sa 0b100111#6) (.nor rd rs rt) ∧
      ∃ t v, exec (.nor rd rs rt) s = .next t ∧ RegisterWritten s t rd v ∧
        ∀ n < 32, v.getLsbD n = !((s.readReg rs).getLsbD n || (s.readReg rt).getLsbD n)) ∧
    (ReadsAs (packI 0b001100#6 rs rt imm) (.andi rt rs imm) ∧
      ∃ t v, exec (.andi rt rs imm) s = .next t ∧ RegisterWritten s t rt v ∧
        ∀ n < 32, v.getLsbD n = ((s.readReg rs).getLsbD n && (decide (n < 16) && imm.getLsbD n))) ∧
    (ReadsAs (packI 0b001101#6 rs rt imm) (.ori rt rs imm) ∧
      ∃ t v, exec (.ori rt rs imm) s = .next t ∧ RegisterWritten s t rt v ∧
        ∀ n < 32, v.getLsbD n = ((s.readReg rs).getLsbD n || (decide (n < 16) && imm.getLsbD n))) ∧
    (ReadsAs (packI 0b001110#6 rs rt imm) (.xori rt rs imm) ∧
      ∃ t v, exec (.xori rt rs imm) s = .next t ∧ RegisterWritten s t rt v ∧
        ∀ n < 32, v.getLsbD n = ((s.readReg rs).getLsbD n != (decide (n < 16) && imm.getLsbD n))) ∧
    (ReadsAs (packI 0b001111#6 x rt imm) (.lui rt imm) ∧
      ∃ t, exec (.lui rt imm) s = .next t ∧ RegisterWritten s t rt (u32 (imm.toNat * 2 ^ 16)))

/-- 47_logic_shift_compare.md R205 to R210: SLL, SRL and SRA of `x[rt]` by `sa`, SLLV, SRLV and SRAV by the low 5 bits of
`x[rs]`, as arithmetic. -/
def Obligations.Shifts : Prop :=
  ∀ (s : State) (rd rs rt : RegIdx) (sa : BitVec 5),
    (ReadsAs (packR 0b000000#6 rs rt rd sa 0b000000#6) (.sll rd rt sa) ∧
      ∃ t, exec (.sll rd rt sa) s = .next t ∧ RegisterWritten s t rd (u32 ((s.readReg rt).toNat * 2 ^ sa.toNat))) ∧
    (ReadsAs (packR 0b000000#6 rs rt rd sa 0b000010#6) (.srl rd rt sa) ∧
      ∃ t, exec (.srl rd rt sa) s = .next t ∧ RegisterWritten s t rd (u32 ((s.readReg rt).toNat / 2 ^ sa.toNat))) ∧
    (ReadsAs (packR 0b000000#6 rs rt rd sa 0b000011#6) (.sra rd rt sa) ∧
      ∃ t, exec (.sra rd rt sa) s = .next t ∧
        RegisterWritten s t rd (u32 (Int.fdiv (signed (s.readReg rt)) (2 ^ sa.toNat)))) ∧
    (ReadsAs (packR 0b000000#6 rs rt rd sa 0b000100#6) (.sllv rd rt rs) ∧
      ∃ t, exec (.sllv rd rt rs) s = .next t ∧
        RegisterWritten s t rd (u32 ((s.readReg rt).toNat * 2 ^ ((s.readReg rs).toNat % 32)))) ∧
    (ReadsAs (packR 0b000000#6 rs rt rd sa 0b000110#6) (.srlv rd rt rs) ∧
      ∃ t, exec (.srlv rd rt rs) s = .next t ∧
        RegisterWritten s t rd (u32 ((s.readReg rt).toNat / 2 ^ ((s.readReg rs).toNat % 32)))) ∧
    (ReadsAs (packR 0b000000#6 rs rt rd sa 0b000111#6) (.srav rd rt rs) ∧
      ∃ t, exec (.srav rd rt rs) s = .next t ∧
        RegisterWritten s t rd (u32 (Int.fdiv (signed (s.readReg rt)) (2 ^ ((s.readReg rs).toNat % 32)))))

/-- 47_logic_shift_compare.md R211 to R214: SLT, SLTU, SLTI and SLTIU; SLTIU sign-extends, then compares unsigned. -/
def Obligations.Compares : Prop :=
  ∀ (s : State) (rd rs rt : RegIdx) (sa : BitVec 5) (imm : Imm16),
    (ReadsAs (packR 0b000000#6 rs rt rd sa 0b101010#6) (.slt rd rs rt) ∧
      ∃ t, exec (.slt rd rs rt) s = .next t ∧
        RegisterWritten s t rd (if signed (s.readReg rs) < signed (s.readReg rt) then 1#32 else 0#32)) ∧
    (ReadsAs (packR 0b000000#6 rs rt rd sa 0b101011#6) (.sltu rd rs rt) ∧
      ∃ t, exec (.sltu rd rs rt) s = .next t ∧
        RegisterWritten s t rd (if (s.readReg rs).toNat < (s.readReg rt).toNat then 1#32 else 0#32)) ∧
    (ReadsAs (packI 0b001010#6 rs rt imm) (.slti rt rs imm) ∧
      ∃ t, exec (.slti rt rs imm) s = .next t ∧
        RegisterWritten s t rt (if signed (s.readReg rs) < imm.toInt then 1#32 else 0#32)) ∧
    (ReadsAs (packI 0b001011#6 rs rt imm) (.sltiu rt rs imm) ∧
      ∃ t, exec (.sltiu rt rs imm) s = .next t ∧
        RegisterWritten s t rt (if (s.readReg rs).toNat < imm.toInt % 2 ^ 32 then 1#32 else 0#32))

/-! ## System instructions -/

/-- 46_system.md R183, R184: service 1 prints the signed value of `x[4]`; service 4 prints the bytes from `x[4]` up to the
first zero byte, and with none up to the top of memory it is the engine error and prints nothing. -/
def Obligations.PrintServices : Prop :=
  ∀ s : State,
    (s.readReg 2#5 = 1#32 →
      ∃ t, exec .syscall s = .next t ∧ Printed s t (.printInt (signed (s.readReg 4#5)))) ∧
    (s.readReg 2#5 = 4#32 →
      (∀ bs : List Byte, (s.readReg 4#5).toNat + bs.length < 2 ^ 32 →
        (∀ k (h : k < bs.length), s.mem.getByte (s.readReg 4#5 + BitVec.ofNat 32 k) = bs[k] ∧ bs[k] ≠ 0#8) →
        s.mem.getByte (s.readReg 4#5 + BitVec.ofNat 32 bs.length) = 0#8 →
        ∃ t, exec .syscall s = .next t ∧ Printed s t (.printString bs)) ∧
      ((∀ a : Word, s.readReg 4#5 ≤ a → s.mem.getByte a ≠ 0#8) →
        exec .syscall s = .next (s.failedWith .unterminatedString)))

/-- 46_system.md R185: service 5 writes the integer the environment delivers to `x[2]`, whichever it is, and changes
no other state of the block; a failed read is the engine error. Both for an answer fixed in advance (log 8) and for a
free one. -/
def Obligations.ReadIntegerService : Prop :=
  ∀ (s : State) (rest : List (Option Word)), s.readReg 2#5 = 5#32 →
    (∀ v : Word, s.intInputs = some v :: rest → IntegerRead s v rest) ∧
    (s.intInputs = none :: rest → exec .syscall s = .next (s.failedWith .badInput)) ∧
    (s.intInputs = [] → (∃ v, IntegerRead s v []) ∨ exec .syscall s = .next (s.failedWith .badInput))

/-- 46_system.md R186: service 8 writes what it takes of a delivery at `x[4]`, then a zero byte, at most `x[5]` bytes
in all, for both values of READ_STRING_KEEPS_NEWLINE; no register changes. Both for a delivery fixed in advance
(log 8) and for a free one. -/
def Obligations.ReadStringService : Prop :=
  ∀ s : State, s.readReg 2#5 = 8#32 → s.readReg 5#5 ≠ 0#32 →
    (∀ line rest, s.lineInputs = line :: rest → LineRead s line rest) ∧
    (s.lineInputs = [] → ∃ line, LineRead s line [])

/-- 46_system.md R186: what service 8 takes of a delivery, at most `max` bytes: all of it up to the first newline
(`0x0A`), the newline itself under READ_STRING_KEEPS_NEWLINE = true and never under false. -/
def Obligations.NewlineEndsTheString : Prop :=
  ∀ (keep : Bool) (a b : List Byte) (max : Nat), 0x0A#8 ∉ a →
    acceptLine keep a max = a.take max ∧
    acceptLine keep (a ++ 0x0A#8 :: b) max = (a ++ if keep then [0x0A#8] else []).take max

/-- 46_system.md R181, R186, R187: service 10 halts and leaves `pc` at the SYSCALL; service 8 with length 0 and every
number outside 1, 4, 5, 8, 10 (all 32 bits compared) are engine errors. -/
def Obligations.ExitAndUnknownServices : Prop :=
  ∀ s : State,
    (s.readReg 2#5 = 10#32 →
      exec .syscall s = .next { s with runState := .halted, lastStop := some .exit }) ∧
    (s.readReg 2#5 = 8#32 → s.readReg 5#5 = 0#32 →
      exec .syscall s = .next (s.failedWith .readStringZeroLength)) ∧
    (s.readReg 2#5 ∉ [1#32, 4#32, 5#32, 8#32, 10#32] →
      exec .syscall s = .next (s.failedWith (.unknownSyscall (s.readReg 2#5))))

/-- 46_system.md R188; 50_step_cycle.md R230: BREAK pauses the run with `Breakpoint(pc)`, the pair advanced under
BREAK_ADVANCES_PC, and touches neither the breakpoint set nor the pending slot. -/
def Obligations.BreakPausesTheRun : Prop :=
  ∀ s : State, ∃ t, exec .brk s = .next t ∧ t.lastStop = some (.breakpoint s.pc) ∧ t.runState = .paused ∧
    (s.config.breakAdvancesPc = true → Sequential s t) ∧
    (s.config.breakAdvancesPc = false → t.pc = s.pc ∧ t.npc = s.npc) ∧
    SameRegs s t ∧ SameHiLo s t ∧ SameMem s t ∧ SameControl s t ∧ SameEnv s t ∧ t.reports = s.reports

/-- 46_system.md R189: TEQ traps on equal registers and writes nothing either way. -/
def Obligations.TrapOnEqualRegisters : Prop :=
  ∀ (s : State) (rs rt rd : RegIdx) (sa : BitVec 5),
    ReadsAs (packR 0b000000#6 rs rt rd sa 0b110100#6) (.teq rs rt) ∧
    (s.readReg rs = s.readReg rt → ∃ t, exec (.teq rs rt) s = .next t ∧ TrapTaken s t .trapOnEqual) ∧
    (s.readReg rs ≠ s.readReg rt →
      ∃ t, exec (.teq rs rt) s = .next t ∧ OnlyTransferred s t (u32 (s.npc.toNat + 4)))

/-! ## Whole-machine rules -/

/-- The invariant holds of the machine as created, of the model's reset state (log 1), and after every reset that is
accepted. -/
def Obligations.InvariantHoldsAtReset : Prop :=
  State.created.Inv ∧ State.reset.Inv ∧ ∀ (elf : ElfInput) (s t : State), resetPort elf s = .ok t → t.Inv

/-- 10_state.md R32 and the model's canonical forms: every step, from every state that meets the invariant, keeps
it. -/
def Obligations.StepKeepsTheInvariant : Prop :=
  ∀ s t : State, s.Inv → step s = .next t → t.Inv

/-- 60_exceptions.md R263: whatever the instruction, an engine error changes nothing but the run state (and the
model's record of the stop). -/
def Obligations.EngineErrorChangesNothing : Prop :=
  ∀ (i : Instr) (s t : State) (k : EngineError), exec i s = .next t → s.Active → t.runState = .failed k →
    t = s.failedWith k

/-- 60_exceptions.md R251, R253, R255: whatever the instruction, a report is a trap and nothing but a trap: it has
the one cause of its instruction, under that cause's condition; and under the condition it is raised. -/
def Obligations.TrapsAreReportedNoOps : Prop :=
  ∀ (i : Instr) (s t : State), exec i s = .next t →
    (t.reports = s.reports ∨ ∃ cause, TrapTaken s t cause) ∧
    ∀ cause, TrapTaken s t cause ↔
      (cause = .overflowADD ∧ ∃ rd rs rt, i = .add rd rs rt ∧
        fitsSigned (signed (s.readReg rs) + signed (s.readReg rt)) = false) ∨
      (cause = .overflowADDI ∧ ∃ rt rs imm, i = .addi rt rs imm ∧
        fitsSigned (signed (s.readReg rs) + imm.toInt) = false) ∨
      (cause = .overflowSUB ∧ ∃ rd rs rt, i = .sub rd rs rt ∧
        fitsSigned (signed (s.readReg rs) - signed (s.readReg rt)) = false) ∨
      (cause = .unalignedWord ∧ ∃ rt rs imm, (i = .lw rt rs imm ∨ i = .sw rt rs imm) ∧
        (effectiveAddress s rs imm).toNat % 4 ≠ 0) ∨
      (cause = .unalignedHalf ∧ ∃ rt rs imm, (i = .lh rt rs imm ∨ i = .lhu rt rs imm ∨ i = .sh rt rs imm) ∧
        (effectiveAddress s rs imm).toNat % 2 ≠ 0) ∨
      (cause = .trapOnEqual ∧ ∃ rs rt, i = .teq rs rt ∧ s.readReg rs = s.readReg rt)

/-- 10_state.md R20, R24, R27, R35; 20_memory.md R54: the frame of every instruction. No register but the
destination its encoding names or the implicit one; `hi` and `lo` by seven instructions only; memory by the stores
and service 8 only; the breakpoint set, the pending slot and the parameters by none; outputs by SYSCALL only. -/
def Obligations.FrameOfEveryInstruction : Prop :=
  ∀ (i : Instr) (s t : State), exec i s = .next t →
    (∀ r, i.destination ≠ some r → t.readReg r = s.readReg r) ∧
    (i.writesHiLo = false → SameHiLo s t) ∧
    (i.isStore = false → ¬ (i = .syscall ∧ s.readReg 2#5 = 8#32) → SameMem s t) ∧
    (i = .syscall → s.readReg 2#5 ≠ 5#32 → SameRegs s t) ∧
    SameControl s t ∧
    (i ≠ .syscall → t.outputs = s.outputs ∧ t.intInputs = s.intInputs ∧ t.lineInputs = s.lineInputs)

/-- 60_exceptions.md R250, R255, R263, R264: no instruction, on any operands, stops the model: each ends in one of
the outcomes of the spec, with the run state that goes with it. -/
def Obligations.EveryInstructionAnswersAState : Prop :=
  ∀ (i : Instr) (s : State), ∃ t, exec i s = .next t ∧
    ((t.lastStop = none ∧ t.runState = s.runState) ∨
      (t.lastStop = some (.breakpoint s.pc) ∧ t.runState = .paused ∧ i = .brk) ∨
      (t.lastStop = some .exit ∧ t.runState = .halted ∧ i = .syscall ∧ s.readReg 2#5 = 10#32) ∨
      ∃ k, t.lastStop = some (.engineError k) ∧ t.runState = .failed k)

/-- 50_step_cycle.md R243; 10_state.md R29: a program cannot detect that a breakpoint is set: no instruction's effect
depends on the breakpoint set or the pending slot. -/
def Obligations.BreakpointsAreInvisible : Prop :=
  ∀ (i : Instr) (s t : State) (bs : List Word) (p : Option Word), exec i s = .next t →
    exec i { s with breakpoints := bs, pendingRearm := p } = .next { t with breakpoints := bs, pendingRearm := p }

/-! ## Reset, run control, the debug port -/

/-- 10_state.md R45, R46, R48: what a reset that is accepted leaves, whatever the state before. -/
def Obligations.ResetValues : Prop :=
  ∀ (elf : ElfInput) (s t : State), resetPort elf s = .ok t →
    (∀ r, t.readReg r = 0#32) ∧ t.hi = 0#32 ∧ t.lo = 0#32 ∧
    t.pc.toNat = elf.rawEntry.toNat - elf.rawEntry.toNat % 4 ∧ t.npc = u32 (t.pc.toNat + 4) ∧
    t.breakpoints = [] ∧ t.pendingRearm = none ∧ t.runState = .paused

/-- 70_reset_and_hazards.md R281, R283: which files are refused, and by which error; every other is accepted. -/
def Obligations.ResetChecks : Prop :=
  ∀ (elf : ElfInput) (s : State),
    (elf.elfType ≠ 2 → resetPort elf s = .error .notExecutable) ∧
    (elf.elfType = 2 → elf.machine ≠ 8 → resetPort elf s = .error .notMips) ∧
    (elf.elfType = 2 → elf.machine = 8 →
      (∃ g ∈ elf.segments, g.kind = 1 ∧ g.addr.toNat + g.bytes.length > 2 ^ 32) →
      resetPort elf s = .error .segmentOverflow) ∧
    (elf.elfType = 2 → elf.machine = 8 →
      (∀ g ∈ elf.segments, g.kind = 1 → g.addr.toNat + g.bytes.length ≤ 2 ^ 32) → ∃ t, resetPort elf s = .ok t)

/-- 70_reset_and_hazards.md R282; 10_state.md R47: a byte of the new memory is the byte of the last PT_LOAD segment
that covers it, and 0 where none does. (That the later of two segments wins is the spec's own decision, D22; log 14.) -/
def Obligations.ImageInMemory : Prop :=
  ∀ (elf : ElfInput) (s t : State) (a : Word), resetPort elf s = .ok t →
    ((∀ g ∈ elf.segments, g.kind = 1 → ∀ k < g.bytes.length, a ≠ g.addr + BitVec.ofNat 32 k) →
      t.mem.getByte a = 0#8) ∧
    ∀ (before after : List Segment) (g : Segment) (k : Nat) (hk : k < g.bytes.length),
      elf.segments = before ++ g :: after → g.kind = 1 → a = g.addr + BitVec.ofNat 32 k →
      (∀ g' ∈ after, g'.kind = 1 → ∀ j < g'.bytes.length, a ≠ g'.addr + BitVec.ofNat 32 j) →
      t.mem.getByte a = g.bytes[k]

/-- 50_step_cycle.md R231, R234: a single-step call ends after one step: at once on an armed breakpoint, else after
one instruction, paused, also when it trapped (R232). -/
def Obligations.SingleStepCall : Prop :=
  ∀ (s t : State) (fuel : Nat), s.Active → step { s with runState := .running } = .next t →
    (∀ a, t.lastStop = some (.breakpoint a) →
      run true (fuel + 1) s = .returned (.breakpoint a) t.pause) ∧
    (t.lastStop = some .exit → run true (fuel + 1) s = .returned .exit t) ∧
    (∀ k, t.lastStop = some (.engineError k) → run true (fuel + 1) s = .returned (.error k) t) ∧
    (t.lastStop = none → run true (fuel + 1) s = .returned .completed t.pause)

/-- 50_step_cycle.md R231, R235: what a call of `run` returns goes with the run state it leaves. -/
def Obligations.RunReturnsWithItsRunState : Prop :=
  ∀ (single : Bool) (fuel : Nat) (s t : State) (r : RunReturn), run single fuel s = .returned r t →
    (∀ a, r = .breakpoint a → t.runState = .paused) ∧ (r = .completed → t.runState = .paused ∧ single = true) ∧
    (r = .exit → t.runState = .halted) ∧ ∀ k, r = .error k → t.runState = .failed k

/-- 50_step_cycle.md R241: toggling a breakpoint twice is the identity, on a canonical set; once it changes the one
membership and leaves the pending slot. -/
def Obligations.BreakpointToggle : Prop :=
  ∀ (s : State) (a : Word),
    (∀ b, b ∈ (toggleBreakpoint s a).breakpoints ↔ if b = a then a ∉ s.breakpoints else b ∈ s.breakpoints) ∧
    (toggleBreakpoint s a).pendingRearm = s.pendingRearm ∧
    (BreakSet.wf s.breakpoints = true → toggleBreakpoint (toggleBreakpoint s a) a = s)

/-- 10_state.md R22, R25; 20_memory.md R56: the debug port's register and memory accesses: register 0 reads 0 and
ignores writes, an index of 32 or more and an access past the top of memory are engine errors. -/
def Obligations.DebugPortAccesses : Prop :=
  ∀ (s : State) (i : Nat) (v a : Word) (h : BitVec 16),
    (i ≥ 32 → debugGetRegister s i = .error (.registerIndexOutOfRange i) ∧
      debugSetRegister s i v = .error (.registerIndexOutOfRange i)) ∧
    (i < 32 → debugGetRegister s i = .ok (s.readReg (BitVec.ofNat 5 i)) ∧
      ∃ t, debugSetRegister s i v = .ok t ∧ OneReg s t (BitVec.ofNat 5 i) v ∧ SameMem s t) ∧
    debugGetRegister s 0 = .ok 0#32 ∧ debugSetRegister s 0 v = .ok s ∧
    (a.toNat > 0xFFFFFFFC → debugGetWord s a = .error .addressOverflow ∧
      debugSetWord s a v = .error .addressOverflow) ∧
    (a.toNat ≤ 0xFFFFFFFC → ∃ t, debugSetWord s a v = .ok t ∧ debugGetWord t a = .ok v) ∧
    (a.toNat = 0xFFFFFFFF → debugGetHalf s a = .error .addressOverflow ∧
      debugSetHalf s a h = .error .addressOverflow) ∧
    (a.toNat < 0xFFFFFFFF → ∃ t, debugSetHalf s a h = .ok t ∧ debugGetHalf t a = .ok h)
end

