-- ==== Sys2Proof/Laws/Arithmetic.lean ====
section
/-! SUPPORT. The model's word operations as the arithmetic of 00_scope.md R12. -/

namespace Sys2Proof.Machine

/-- Two words are equal when they are equal modulo 2^32 as integers. -/
theorem eq_u32_of_emod {w : Word} {z : Int} (h : (w.toNat : Int) = z % 2 ^ 32) : w = u32 z := by
  apply BitVec.eq_of_toNat_eq
  rw [BitVec.toNat_ofInt]
  norm_cast at h ⊢
  omega

theorem toNat_u32 (z : Int) : ((u32 z).toNat : Int) = z % 2 ^ 32 := by
  rw [BitVec.toNat_ofInt]
  norm_cast
  omega

/-- `signed` and the unsigned value agree modulo 2^32. -/
theorem signed_emod (w : Word) : signed w % 2 ^ 32 = w.toNat := by
  have := w.isLt
  rw [signed, BitVec.toInt_eq_toNat_cond]
  split <;> omega

theorem toInt16_emod (imm : BitVec 16) : ((sext16 imm).toNat : Int) = imm.toInt % 2 ^ 32 := by
  unfold sext16 BitVec.signExtend
  exact toNat_u32 _

theorem add_eq_u32 (a b : Word) : a + b = u32 (a.toNat + b.toNat) := by
  apply eq_u32_of_emod
  rw [BitVec.toNat_add]
  omega

theorem sub_eq_u32 (a b : Word) : a - b = u32 (a.toNat - b.toNat) := by
  apply eq_u32_of_emod
  rw [BitVec.toNat_sub]
  have := b.isLt
  omega

theorem add_sext16 (a : Word) (imm : BitVec 16) : a + sext16 imm = u32 (a.toNat + imm.toInt) := by
  apply eq_u32_of_emod
  have := toInt16_emod imm
  rw [BitVec.toNat_add]
  omega

theorem add_lit (a : Word) (n : Nat) : a + BitVec.ofNat 32 n = u32 (a.toNat + n) := by
  apply eq_u32_of_emod
  rw [BitVec.toNat_add, BitVec.toNat_ofNat]
  omega

theorem signed_sext16 (imm : BitVec 16) : signed (sext16 imm) = imm.toInt :=
  BitVec.toInt_signExtend_of_le (by decide)

theorem add_branchOffset (a : Word) (imm : Imm16) : a + branchOffset imm = u32 (a.toNat + 4 * imm.toInt) := by
  apply eq_u32_of_emod
  have := toInt16_emod imm
  rw [branchOffset, BitVec.toNat_add, BitVec.toNat_shiftLeft, Nat.shiftLeft_eq]
  omega

theorem signed_branchOffset (imm : Imm16) : signed (branchOffset imm) = 4 * imm.toInt := by
  have h := toInt16_emod imm
  have h1 := BitVec.toInt_lt (x := imm)
  have h2 := BitVec.le_toInt (x := imm)
  rw [signed, BitVec.toInt_eq_toNat_cond, branchOffset, BitVec.toNat_shiftLeft, Nat.shiftLeft_eq]
  split <;> omega

theorem region_mask (npc : Word) : npc &&& 0xF0000000#32 = npc >>> 28 <<< 28 := by
  ext i hi
  interval_cases i <;> simp

/-- The target of `jump_index` as a number (50_step_cycle.md R227). -/
theorem jumpRegion_toNat (npc : Word) (index : BitVec 26) :
    ((npc &&& 0xF0000000#32) ||| (index.setWidth 32 <<< 2)).toNat =
      npc.toNat / 2 ^ 28 * 2 ^ 28 + 4 * index.toNat := by
  have := npc.isLt
  have := index.isLt
  have h : (npc.toNat >>> 28 <<< 28) < 2 ^ 32 := by rw [Nat.shiftLeft_eq, Nat.shiftRight_eq_div_pow]; omega
  have h' : index.toNat <<< 2 < 2 ^ 28 := by rw [Nat.shiftLeft_eq]; omega
  rw [region_mask, BitVec.toNat_or, BitVec.toNat_shiftLeft, BitVec.toNat_shiftLeft, BitVec.toNat_ushiftRight,
    BitVec.toNat_setWidth, Nat.mod_eq_of_lt h, Nat.mod_eq_of_lt (by omega : index.toNat < 2 ^ 32),
    Nat.mod_eq_of_lt (by omega : index.toNat <<< 2 < 2 ^ 32), ← Nat.shiftLeft_add_eq_or_of_lt h',
    Nat.shiftLeft_eq, Nat.shiftRight_eq_div_pow, Nat.shiftLeft_eq]
  omega

/-- `signed` undoes `u32` inside the range of a word. -/
theorem signed_u32 {z : Int} (h : -(2 ^ 31) ≤ z ∧ z ≤ 2 ^ 31 - 1) : signed (u32 z) = z := by
  rw [signed, BitVec.toInt_ofInt]
  exact Int.bmod_eq_of_le (by omega) (by omega)

/-! ## Products -/

theorem productLo_toNat (p : Int) : ((productLo p).toNat : Int) = p % 2 ^ 32 := by
  simp only [productLo, BitVec.extractLsb'_toNat, BitVec.toNat_ofInt, Nat.shiftRight_eq_div_pow]
  push_cast
  omega

theorem productHi_toNat (p : Int) : ((productHi p).toNat : Int) = p % 2 ^ 64 / 2 ^ 32 := by
  simp only [productHi, BitVec.extractLsb'_toNat, BitVec.toNat_ofInt, Nat.shiftRight_eq_div_pow]
  push_cast
  omega

/-- The halves of a product that fits 64 signed bits give it back. -/
theorem signed_product_halves {p : Int} (h : -(2 ^ 63) ≤ p ∧ p < 2 ^ 63) :
    signed (productHi p) * 2 ^ 32 + (productLo p).toNat = p := by
  have h1 := productLo_toNat p
  have h2 := productHi_toNat p
  rw [signed, BitVec.toInt_eq_toNat_cond]
  split <;> omega

/-- The halves of a product that fits 64 unsigned bits give it back. -/
theorem unsigned_product_halves {p : Int} (h : 0 ≤ p ∧ p < 2 ^ 64) :
    ((productHi p).toNat : Int) * 2 ^ 32 + (productLo p).toNat = p := by
  have h1 := productLo_toNat p
  have h2 := productHi_toNat p
  omega

/-- A product of two signed words fits 64 signed bits. -/
theorem signed_mul_fits (a b : Word) : -(2 ^ 63) ≤ signed a * signed b ∧ signed a * signed b < 2 ^ 63 := by
  have hb : ∀ w : Word, |signed w| ≤ 2 ^ 31 := fun w => by
    have h1 := BitVec.le_toInt (x := w)
    have h2 := BitVec.toInt_lt (x := w)
    rw [abs_le]
    constructor <;> simp only [signed] <;> omega
  have h : |signed a * signed b| ≤ 2 ^ 31 * 2 ^ 31 := by
    rw [abs_mul]
    exact mul_le_mul (hb a) (hb b) (abs_nonneg _) (by norm_num)
  rw [abs_le] at h
  constructor <;> omega

end Sys2Proof.Machine
end

