-- ==== Sys2Proof/Laws/Breakpoints.lean ====
section
/-! SUPPORT. The laws of the breakpoint set. -/

namespace Sys2Proof.Machine

theorem BreakSet.mem_insert (bs : List Word) (a b : Word) :
    b ∈ BreakSet.insert bs a ↔ b = a ∨ b ∈ bs := by
  induction bs with
  | nil => simp [BreakSet.insert]
  | cons c rest ih =>
    simp only [BreakSet.insert]
    split
    · grind
    · split <;> grind

theorem BreakSet.mem_erase (bs : List Word) (a b : Word) :
    b ∈ BreakSet.erase bs a ↔ b ∈ bs ∧ b ≠ a := by
  simp [BreakSet.erase]

theorem BreakSet.wfFrom_mono {lo lo' : Nat} {bs : List Word} (h : BreakSet.wfFrom lo bs) (hl : lo' ≤ lo) :
    BreakSet.wfFrom lo' bs := by
  cases bs with
  | nil => rfl
  | cons b rest =>
    simp only [BreakSet.wfFrom, Bool.and_eq_true, decide_eq_true_eq] at h ⊢
    exact ⟨by omega, h.2⟩

theorem BreakSet.wfFrom_insert {lo : Nat} {bs : List Word} (a : Word) (h : BreakSet.wfFrom lo bs)
    (hlo : lo ≤ a.toNat) : BreakSet.wfFrom lo (BreakSet.insert bs a) := by
  induction bs generalizing lo with
  | nil => simpa [BreakSet.insert, BreakSet.wfFrom] using hlo
  | cons b rest ih =>
    simp only [BreakSet.wfFrom, Bool.and_eq_true, decide_eq_true_eq] at h
    simp only [BreakSet.insert]
    split
    · simp [BreakSet.wfFrom, h]
    · next hne =>
      split
      · next hlt =>
        have hlt : a.toNat < b.toNat := hlt
        simp only [BreakSet.wfFrom, Bool.and_eq_true, decide_eq_true_eq]
        exact ⟨hlo, by omega, h.2⟩
      · next hge =>
        have hge : ¬ a.toNat < b.toNat := hge
        have hne : a.toNat ≠ b.toNat := fun e => hne (BitVec.eq_of_toNat_eq e)
        simp only [BreakSet.wfFrom, Bool.and_eq_true, decide_eq_true_eq]
        exact ⟨h.1, ih h.2 (by omega)⟩

theorem BreakSet.wfFrom_erase {lo : Nat} {bs : List Word} (a : Word) (h : BreakSet.wfFrom lo bs) :
    BreakSet.wfFrom lo (BreakSet.erase bs a) := by
  induction bs generalizing lo with
  | nil => rfl
  | cons b rest ih =>
    simp only [BreakSet.wfFrom, Bool.and_eq_true, decide_eq_true_eq] at h
    by_cases hb : b = a
    · subst hb
      simpa [BreakSet.erase] using BreakSet.wfFrom_mono (ih h.2) (show lo ≤ b.toNat + 1 by omega)
    · have := ih h.2
      simp only [BreakSet.erase] at this ⊢
      simp only [hb, ne_eq, not_false_eq_true, decide_true, List.filter_cons_of_pos, BreakSet.wfFrom,
        Bool.and_eq_true, decide_eq_true_eq]
      exact ⟨h.1, this⟩

theorem BreakSet.wf_insert {bs : List Word} (a : Word) (h : BreakSet.wf bs) : BreakSet.wf (BreakSet.insert bs a) :=
  BreakSet.wfFrom_insert a h (Nat.zero_le _)

theorem BreakSet.wf_erase {bs : List Word} (a : Word) (h : BreakSet.wf bs) : BreakSet.wf (BreakSet.erase bs a) :=
  BreakSet.wfFrom_erase a h

/-- Every member of a canonical set lies at or above its bound. -/
theorem BreakSet.le_of_mem {lo : Nat} {bs : List Word} (h : BreakSet.wfFrom lo bs) {b : Word} (hb : b ∈ bs) :
    lo ≤ b.toNat := by
  induction bs generalizing lo with
  | nil => simp at hb
  | cons c rest ih =>
    simp only [BreakSet.wfFrom, Bool.and_eq_true, decide_eq_true_eq] at h
    rcases List.mem_cons.mp hb with rfl | hb
    · exact h.1
    · have := ih h.2 hb; omega

/-- Canonical sets with the same members are equal. -/
theorem BreakSet.ext {lo : Nat} {bs cs : List Word} (hb : BreakSet.wfFrom lo bs) (hc : BreakSet.wfFrom lo cs)
    (h : ∀ a, a ∈ bs ↔ a ∈ cs) : bs = cs := by
  induction bs generalizing lo cs with
  | nil =>
    cases cs with
    | nil => rfl
    | cons c cs => exact absurd ((h c).mpr (by simp)) (by simp)
  | cons b bs ih =>
    cases cs with
    | nil => exact absurd ((h b).mp (by simp)) (by simp)
    | cons c cs =>
      simp only [BreakSet.wfFrom, Bool.and_eq_true, decide_eq_true_eq] at hb hc
      have hbc : b = c := by
        rcases List.mem_cons.mp ((h b).mp (by simp)) with e | hbm
        · exact e
        · rcases List.mem_cons.mp ((h c).mpr (by simp)) with e | hcm
          · exact e.symm
          · have h1 := BreakSet.le_of_mem hc.2 hbm
            have h2 := BreakSet.le_of_mem hb.2 hcm
            omega
      subst hbc
      congr 1
      refine ih hb.2 hc.2 (fun a => ⟨fun ha => ?_, fun ha => ?_⟩)
      · rcases List.mem_cons.mp ((h a).mp (List.mem_cons_of_mem _ ha)) with rfl | h'
        · have := BreakSet.le_of_mem hb.2 ha; omega
        · exact h'
      · rcases List.mem_cons.mp ((h a).mpr (List.mem_cons_of_mem _ ha)) with rfl | h'
        · have := BreakSet.le_of_mem hc.2 ha; omega
        · exact h'

end Sys2Proof.Machine
end

