-- ==== Sys2Proof/Laws/Decode.lean ====
section
/-! SUPPORT. The fields of a packed word, and a word put together again from its fields. -/

namespace Sys2Proof

section Packed
variable (op : BitVec 6) (rs rt rd : RegIdx) (sa : BitVec 5) (funct : BitVec 6) (imm : Imm16) (index : BitVec 26)

/-! ## Fields of a packed word -/

@[simp] theorem opField_packR : opField (packR op rs rt rd sa funct) = op := by
  ext i hi
  simp only [opField, packR, BitVec.getElem_extractLsb', BitVec.getLsbD_append]
  grind

@[simp] theorem rsField_packR : rsField (packR op rs rt rd sa funct) = rs := by
  ext i hi
  simp only [rsField, packR, BitVec.getElem_extractLsb', BitVec.getLsbD_append]
  grind

@[simp] theorem rtField_packR : rtField (packR op rs rt rd sa funct) = rt := by
  ext i hi
  simp only [rtField, packR, BitVec.getElem_extractLsb', BitVec.getLsbD_append]
  grind

@[simp] theorem rdField_packR : rdField (packR op rs rt rd sa funct) = rd := by
  ext i hi
  simp only [rdField, packR, BitVec.getElem_extractLsb', BitVec.getLsbD_append]
  grind

@[simp] theorem saField_packR : saField (packR op rs rt rd sa funct) = sa := by
  ext i hi
  simp only [saField, packR, BitVec.getElem_extractLsb', BitVec.getLsbD_append]
  grind

@[simp] theorem functField_packR : functField (packR op rs rt rd sa funct) = funct := by
  ext i hi
  simp only [functField, packR, BitVec.getElem_extractLsb', BitVec.getLsbD_append]
  grind

@[simp] theorem opField_packI : opField (packI op rs rt imm) = op := by
  ext i hi
  simp only [opField, packI, BitVec.getElem_extractLsb', BitVec.getLsbD_append]
  grind

@[simp] theorem rsField_packI : rsField (packI op rs rt imm) = rs := by
  ext i hi
  simp only [rsField, packI, BitVec.getElem_extractLsb', BitVec.getLsbD_append]
  grind

@[simp] theorem rtField_packI : rtField (packI op rs rt imm) = rt := by
  ext i hi
  simp only [rtField, packI, BitVec.getElem_extractLsb', BitVec.getLsbD_append]
  grind

@[simp] theorem immField_packI : immField (packI op rs rt imm) = imm := by
  ext i hi
  simp only [immField, packI, BitVec.getElem_extractLsb', BitVec.getLsbD_append]
  grind

@[simp] theorem opField_packJ : opField (packJ op index) = op := by
  ext i hi
  simp only [opField, packJ, BitVec.getElem_extractLsb', BitVec.getLsbD_append]
  grind

@[simp] theorem indexField_packJ : indexField (packJ op index) = index := by
  ext i hi
  simp only [indexField, packJ, BitVec.getElem_extractLsb', BitVec.getLsbD_append]
  grind

end Packed

/-! ## A word from its fields -/

theorem packR_fields (w : Word) :
    packR (opField w) (rsField w) (rtField w) (rdField w) (saField w) (functField w) = w := by
  ext i hi
  simp only [packR, opField, rsField, rtField, rdField, saField, functField]
  grind

theorem packI_fields (w : Word) : packI (opField w) (rsField w) (rtField w) (immField w) = w := by
  ext i hi
  simp only [packI, opField, rsField, rtField, immField]
  grind

theorem packJ_fields (w : Word) : packJ (opField w) (indexField w) = w := by
  ext i hi
  simp only [packJ, opField, indexField]
  grind

/-- Masking a packed word masks its fields. -/
theorem packR_and (a b : BitVec 6) (c d e f g h : RegIdx) (k l : BitVec 5) (m n : BitVec 6) :
    packR a c e g k m &&& packR b d f h l n = packR (a &&& b) (c &&& d) (e &&& f) (g &&& h) (k &&& l) (m &&& n) := by
  ext i hi
  simp only [packR, BitVec.getElem_and, BitVec.getElem_append]
  grind

theorem packI_and (a b : BitVec 6) (c d e f : RegIdx) (m n : Imm16) :
    packI a c e m &&& packI b d f n = packI (a &&& b) (c &&& d) (e &&& f) (m &&& n) := by
  ext i hi
  simp only [packI, BitVec.getElem_and, BitVec.getElem_append]
  grind

theorem packJ_and (a b : BitVec 6) (c d : BitVec 26) :
    packJ a c &&& packJ b d = packJ (a &&& b) (c &&& d) := by
  ext i hi
  simp only [packJ, BitVec.getElem_and, BitVec.getElem_append]
  grind

/-- The bits of a word that a packed mask keeps, field by field. -/
theorem and_packR (w : Word) (op : BitVec 6) (rs rt rd : RegIdx) (sa : BitVec 5) (funct : BitVec 6) :
    w &&& packR op rs rt rd sa funct =
      packR (opField w &&& op) (rsField w &&& rs) (rtField w &&& rt) (rdField w &&& rd) (saField w &&& sa)
        (functField w &&& funct) := by
  rw [← packR_and, packR_fields]

theorem and_packI (w : Word) (op : BitVec 6) (rs rt : RegIdx) (imm : Imm16) :
    w &&& packI op rs rt imm = packI (opField w &&& op) (rsField w &&& rs) (rtField w &&& rt) (immField w &&& imm) := by
  rw [← packI_and, packI_fields]

theorem not_packR (op : BitVec 6) (rs rt rd : RegIdx) (sa : BitVec 5) (funct : BitVec 6) :
    ~~~packR op rs rt rd sa funct = packR (~~~op) (~~~rs) (~~~rt) (~~~rd) (~~~sa) (~~~funct) := by
  ext i hi
  simp only [packR, BitVec.getElem_not, BitVec.getElem_append]
  grind

theorem not_packI (op : BitVec 6) (rs rt : RegIdx) (imm : Imm16) :
    ~~~packI op rs rt imm = packI (~~~op) (~~~rs) (~~~rt) (~~~imm) := by
  ext i hi
  simp only [packI, BitVec.getElem_not, BitVec.getElem_append]
  grind

theorem and_ones32 (x : Word) : x &&& 4294967295#32 = x := BitVec.and_allOnes

theorem and_ones16 (x : BitVec 16) : x &&& 65535#16 = x := BitVec.and_allOnes

theorem and_ones6 (x : BitVec 6) : x &&& 63#6 = x := BitVec.and_allOnes

theorem and_ones5 (x : BitVec 5) : x &&& 31#5 = x := BitVec.and_allOnes

/-- Four bytes of a word put together again. -/
@[simp] theorem wordOfBytes_byteOfWord (w : Word) :
    wordOfBytes (byteOfWord w 0) (byteOfWord w 1) (byteOfWord w 2) (byteOfWord w 3) = w := by
  ext i hi
  simp only [wordOfBytes, byteOfWord]
  grind

/-- The bits of a word made of four bytes. -/
theorem getElem_wordOfBytes (b0 b1 b2 b3 : Byte) (i : Nat) (hi : i < 32) :
    (wordOfBytes b0 b1 b2 b3)[i] =
      if h : i < 8 then b0[i] else if h : i < 16 then b1[i - 8] else if h : i < 24 then b2[i - 16]
      else b3[i - 24] := by
  simp only [wordOfBytes]
  grind

/-- A byte of a word as a number. -/
theorem byteOfWord_eq (w : Word) (i : Nat) : byteOfWord w i = BitVec.ofNat 8 (w.toNat / 2 ^ (8 * i)) := by
  apply BitVec.eq_of_toNat_eq
  simp [byteOfWord, BitVec.extractLsb'_toNat, Nat.shiftRight_eq_div_pow]

/-- A word made of four bytes as a number. -/
theorem wordOfBytes_toNat (b0 b1 b2 b3 : Byte) :
    (wordOfBytes b0 b1 b2 b3).toNat =
      b0.toNat + 2 ^ 8 * b1.toNat + 2 ^ 16 * b2.toNat + 2 ^ 24 * b3.toNat := by
  have happ : ∀ {n : Nat} (a : BitVec n) (b : Byte), (a ++ b).toNat = a.toNat * 2 ^ 8 + b.toNat := by
    intro n a b
    rw [BitVec.toNat_append, ← Nat.shiftLeft_add_eq_or_of_lt b.isLt, Nat.shiftLeft_eq]
  simp only [wordOfBytes, happ]
  omega

/-! ## What the decoder's last test leaves -/

theorem decode_eq_instr {c : Config} {w : Word} {i : Instr} :
    decode c w = .instr i ↔ decodeFields w = some i ∧ i.WellFormed c ∧ fieldsAccepted c i w := by
  unfold decode
  cases decodeFields w with
  | none => simp
  | some k =>
    simp only [Option.some.injEq]
    split <;> grind

theorem decode_eq_unknown {c : Config} {w v : Word} (h : decode c w = .unknown v) : v = w := by
  unfold decode at h
  grind

/-- With every instruction present and unused fields ignored, only the tables decide. -/
theorem decode_lenient {c : Config} (hu : c.includeUnnamedOps = true) (hz : c.decodeStrictZeroFields = false)
    (w : Word) : decode c w = match decodeFields w with | some i => .instr i | none => .unknown w := by
  unfold decode
  cases decodeFields w <;> simp [Instr.WellFormed, fieldsAccepted, hu, hz]

end Sys2Proof
end

