-- ==== Sys2Proof/Laws/Memory.lean ====
section
/-! SUPPORT. The laws of memory: read after write, the other addresses, the canonical form. -/

namespace Sys2Proof.Machine

theorem Memory.read_erase (m : Memory) (a b : Nat) :
    (m.erase a).read b = if b = a then 0#8 else m.read b := by
  induction m with
  | nil => simp [Memory.erase, Memory.read]
  | cons c rest ih =>
    obtain ⟨k, v⟩ := c
    simp only [Memory.erase, Memory.read]
    split <;> (try simp only [Memory.read]) <;> grind

theorem Memory.read_insertCell (m : Memory) (a b : Nat) (v : Byte) (h : ∀ c ∈ m, c.1 ≠ a) :
    (m.insertCell a v).read b = if b = a then v else m.read b := by
  induction m with
  | nil => simp [Memory.insertCell, Memory.read, eq_comm]
  | cons c rest ih =>
    obtain ⟨k, w⟩ := c
    have hk : k ≠ a := h (k, w) (by simp)
    have ih := ih (fun c hc => h c (by simp [hc]))
    simp only [Memory.insertCell]
    split <;> simp only [Memory.read] <;> grind

theorem Memory.ne_of_mem_erase (m : Memory) (a : Nat) : ∀ c ∈ m.erase a, c.1 ≠ a := by
  induction m with
  | nil => simp [Memory.erase]
  | cons c rest ih =>
    obtain ⟨k, v⟩ := c
    simp only [Memory.erase]
    split <;> grind

/-- One byte written, every byte read. -/
theorem Memory.read_write (m : Memory) (a b : Nat) (v : Byte) :
    (m.write a v).read b = if b = a then v else m.read b := by
  unfold Memory.write
  split
  · next h => rw [Memory.read_erase, h]
  · rw [Memory.read_insertCell _ _ _ _ (Memory.ne_of_mem_erase m a), Memory.read_erase]
    split <;> rfl

theorem Memory.getByte_setByte (m : Memory) (a b : Word) (v : Byte) :
    (m.setByte a v).getByte b = if b = a then v else m.getByte b := by
  simp [Memory.setByte, Memory.getByte, Memory.read_write, BitVec.toNat_inj]

/-! ## The canonical form is kept -/

theorem Memory.wfFrom_mono {lo lo' : Nat} {m : Memory} (h : Memory.wfFrom lo m) (hl : lo' ≤ lo) :
    Memory.wfFrom lo' m := by
  cases m with
  | nil => rfl
  | cons c rest =>
    obtain ⟨k, v⟩ := c
    simp only [Memory.wfFrom, Bool.and_eq_true, decide_eq_true_eq] at h ⊢
    grind

theorem Memory.wfFrom_erase {lo : Nat} {m : Memory} (a : Nat) (h : Memory.wfFrom lo m) :
    Memory.wfFrom lo (m.erase a) := by
  induction m generalizing lo with
  | nil => rfl
  | cons c rest ih =>
    obtain ⟨k, v⟩ := c
    simp only [Memory.wfFrom, Bool.and_eq_true, decide_eq_true_eq] at h
    simp only [Memory.erase]
    split
    · exact ih (Memory.wfFrom_mono h.2 (by omega))
    · simp only [Memory.wfFrom, Bool.and_eq_true, decide_eq_true_eq]
      exact ⟨h.1, ih h.2⟩

theorem Memory.wfFrom_insertCell {lo : Nat} {m : Memory} (a : Nat) (v : Byte) (h : Memory.wfFrom lo m)
    (ha : a < 2 ^ 32) (hlo : lo ≤ a) (hv : v ≠ 0#8) (hne : ∀ c ∈ m, c.1 ≠ a) :
    Memory.wfFrom lo (m.insertCell a v) := by
  induction m generalizing lo with
  | nil => simpa [Memory.insertCell, Memory.wfFrom, hlo] using ⟨ha, hv⟩
  | cons c rest ih =>
    obtain ⟨k, w⟩ := c
    have hk : k ≠ a := hne (k, w) (by simp)
    simp only [Memory.wfFrom, Bool.and_eq_true, decide_eq_true_eq] at h
    simp only [Memory.insertCell]
    split
    · simp only [Memory.wfFrom, Bool.and_eq_true, decide_eq_true_eq]
      exact ⟨⟨⟨hlo, ha⟩, hv⟩, ⟨⟨by omega, h.1.1.2⟩, h.1.2⟩, h.2⟩
    · simp only [Memory.wfFrom, Bool.and_eq_true, decide_eq_true_eq]
      exact ⟨h.1, ih h.2 (by omega) (fun c hc => hne c (by simp [hc]))⟩

/-- A byte write inside the address space keeps the canonical form. -/
theorem Memory.wf_write {m : Memory} (a : Nat) (v : Byte) (h : m.wf) (ha : a < 2 ^ 32) : (m.write a v).wf := by
  unfold Memory.write
  split
  · exact Memory.wfFrom_erase a h
  · next hv =>
    exact Memory.wfFrom_insertCell a v (Memory.wfFrom_erase a h) ha (Nat.zero_le a) hv
      (Memory.ne_of_mem_erase m a)

theorem Memory.wf_setByte {m : Memory} (a : Word) (v : Byte) (h : m.wf) : (m.setByte a v).wf :=
  Memory.wf_write _ v h a.isLt

theorem Memory.wf_setBytes {m : Memory} (a : Word) (bs : List Byte) (h : m.wf) : (m.setBytes a bs).wf := by
  induction bs generalizing m a with
  | nil => exact h
  | cons b bs ih => exact ih _ (Memory.wf_setByte a b h)

theorem Memory.wf_setHalf {m : Memory} (a : Word) (v : BitVec 16) (h : m.wf) : (m.setHalf a v).wf :=
  Memory.wf_setBytes a _ h

theorem Memory.wf_setWord {m : Memory} (a v : Word) (h : m.wf) : (m.setWord a v).wf :=
  Memory.wf_setBytes a _ h

/-! ## Equal reads are equal lists -/

theorem Memory.read_below {lo a : Nat} {m : Memory} (h : Memory.wfFrom lo m) (ha : a < lo) : m.read a = 0#8 := by
  induction m generalizing lo with
  | nil => rfl
  | cons c rest ih =>
    obtain ⟨k, v⟩ := c
    simp only [Memory.wfFrom, Bool.and_eq_true, decide_eq_true_eq] at h
    simp only [Memory.read]
    rw [if_neg (by omega)]
    exact ih h.2 (by omega)

/-! ## Wider accesses -/

theorem Memory.getByte_setHalf (m : Memory) (a b : Word) (v : BitVec 16) :
    (m.setHalf a v).getByte b =
      if b = a + 1#32 then v.extractLsb' 8 8 else if b = a then v.extractLsb' 0 8 else m.getByte b := by
  simp [Memory.setHalf, Memory.setBytes, Memory.getByte_setByte]

theorem Memory.getByte_setWord (m : Memory) (a b v : Word) :
    (m.setWord a v).getByte b =
      if b = a + 3#32 then byteOfWord v 3 else if b = a + 2#32 then byteOfWord v 2
      else if b = a + 1#32 then byteOfWord v 1 else if b = a then byteOfWord v 0 else m.getByte b := by
  simp [Memory.setWord, Memory.setBytes, Memory.getByte_setByte, BitVec.add_assoc]

/-- A byte outside a written range is untouched. -/
theorem Memory.getByte_setBytes_of_not_mem (m : Memory) (a b : Word) (bs : List Byte)
    (h : ∀ k < bs.length, b ≠ a + BitVec.ofNat 32 k) : (m.setBytes a bs).getByte b = m.getByte b := by
  induction bs generalizing m a with
  | nil => rfl
  | cons c bs ih =>
    simp only [Memory.setBytes]
    rw [ih, Memory.getByte_setByte, if_neg]
    · simpa using h 0 (by simp)
    · intro k hk
      have := h (k + 1) (by simpa using hk)
      rwa [show BitVec.ofNat 32 (k + 1) = 1 + BitVec.ofNat 32 k by
        rw [Nat.add_comm, BitVec.ofNat_add]; rfl, ← BitVec.add_assoc] at this

/-- A byte inside a written range that does not wrap onto itself. -/
theorem Memory.getByte_setBytes (m : Memory) (a : Word) (bs : List Byte) (k : Nat) (hk : k < bs.length)
    (hl : bs.length ≤ 2 ^ 32) : (m.setBytes a bs).getByte (a + BitVec.ofNat 32 k) = bs[k] := by
  induction bs generalizing m a k with
  | nil => simp at hk
  | cons c bs ih =>
    simp only [List.length_cons] at hk hl
    cases k with
    | zero =>
      simp only [Memory.setBytes]
      rw [Memory.getByte_setBytes_of_not_mem, Memory.getByte_setByte]
      · simp
      · intro j hj he
        have := congrArg BitVec.toNat he
        simp [BitVec.toNat_add] at this
        have := a.isLt
        omega
    | succ j =>
      simp only [Memory.setBytes]
      rw [show a + BitVec.ofNat 32 (j + 1) = a + 1 + BitVec.ofNat 32 j by
        rw [Nat.add_comm, BitVec.ofNat_add, ← BitVec.add_assoc]; rfl]
      simpa using ih (m.setByte a c) (a + 1) j (by omega) (by omega)

theorem Memory.getWord_setWord (m : Memory) (a v : Word) : (m.setWord a v).getWord a = v := by
  simp only [Memory.getWord, Memory.getByte_setWord]
  unfold wordOfBytes byteOfWord
  ext i hi
  grind

end Sys2Proof.Machine
end

