-- ==== Sys2Proof/Laws/State.lean ====
section
/-! SUPPORT. One lemma per field per state update, and reading a register after each. -/

namespace Sys2Proof.Machine

/-! ## Registers -/

theorem RegIdx.toNat_pos {i : RegIdx} (h : i ≠ 0#5) : 0 < i.toNat :=
  Nat.pos_of_ne_zero (fun e => h (BitVec.eq_of_toNat_eq e))

theorem Regs.read_zero (r : Regs) : r.read 0#5 = 0#32 := rfl

theorem Regs.read_write (r : Regs) (i j : RegIdx) (v : Word) :
    (r.write i v).read j = if j = i ∧ i ≠ 0#5 then v else r.read j := by
  unfold Regs.read Regs.write
  by_cases hi : i = 0#5
  · simp only [hi, if_true, ne_eq, not_true_eq_false, and_false, if_false]
  by_cases hj : j = 0#5
  · simp only [hj, if_true, Ne.symm hi, false_and, if_false]
  simp only [hi, hj, if_false, ne_eq, not_false_eq_true, and_true, Vector.getElem_set]
  have := RegIdx.toNat_pos hi
  have := RegIdx.toNat_pos hj
  have : (i.toNat - 1 = j.toNat - 1) ↔ j = i :=
    ⟨fun h => BitVec.eq_of_toNat_eq (by omega), fun h => by rw [h]⟩
  simp only [this]

@[simp] theorem State.readReg_zero (s : State) : s.readReg 0#5 = 0#32 := Regs.read_zero _

/-- A register read after a register write (10_state.md R22). -/
theorem State.readReg_writeReg (s : State) (i j : RegIdx) (v : Word) :
    (s.writeReg i v).readReg j = if j = i ∧ i ≠ 0#5 then v else s.readReg j := Regs.read_write _ _ _ _

@[simp] theorem State.writeReg_zero (s : State) (v : Word) : s.writeReg 0#5 v = s := rfl

/-! ## Fields -/

@[simp] theorem State.writeReg_regs (s : State) (i : RegIdx) (v : Word) : (s.writeReg i v).regs = s.regs.write i v := rfl
@[simp] theorem State.writeReg_hi (s : State) (i : RegIdx) (v : Word) : (s.writeReg i v).hi = s.hi := rfl
@[simp] theorem State.writeReg_lo (s : State) (i : RegIdx) (v : Word) : (s.writeReg i v).lo = s.lo := rfl
@[simp] theorem State.writeReg_pc (s : State) (i : RegIdx) (v : Word) : (s.writeReg i v).pc = s.pc := rfl
@[simp] theorem State.writeReg_npc (s : State) (i : RegIdx) (v : Word) : (s.writeReg i v).npc = s.npc := rfl
@[simp] theorem State.writeReg_mem (s : State) (i : RegIdx) (v : Word) : (s.writeReg i v).mem = s.mem := rfl
@[simp] theorem State.writeReg_breakpoints (s : State) (i : RegIdx) (v : Word) : (s.writeReg i v).breakpoints = s.breakpoints := rfl
@[simp] theorem State.writeReg_pendingRearm (s : State) (i : RegIdx) (v : Word) : (s.writeReg i v).pendingRearm = s.pendingRearm := rfl
@[simp] theorem State.writeReg_runState (s : State) (i : RegIdx) (v : Word) : (s.writeReg i v).runState = s.runState := rfl
@[simp] theorem State.writeReg_config (s : State) (i : RegIdx) (v : Word) : (s.writeReg i v).config = s.config := rfl
@[simp] theorem State.writeReg_lastStop (s : State) (i : RegIdx) (v : Word) : (s.writeReg i v).lastStop = s.lastStop := rfl
@[simp] theorem State.writeReg_reports (s : State) (i : RegIdx) (v : Word) : (s.writeReg i v).reports = s.reports := rfl
@[simp] theorem State.writeReg_outputs (s : State) (i : RegIdx) (v : Word) : (s.writeReg i v).outputs = s.outputs := rfl
@[simp] theorem State.writeReg_intInputs (s : State) (i : RegIdx) (v : Word) : (s.writeReg i v).intInputs = s.intInputs := rfl
@[simp] theorem State.writeReg_lineInputs (s : State) (i : RegIdx) (v : Word) : (s.writeReg i v).lineInputs = s.lineInputs := rfl
@[simp] theorem State.writeReg_draws (s : State) (i : RegIdx) (v : Word) : (s.writeReg i v).draws = s.draws := rfl

@[simp] theorem State.setHiLo_regs (s : State) (h l : Word) : (s.setHiLo h l).regs = s.regs := rfl
@[simp] theorem State.setHiLo_hi (s : State) (h l : Word) : (s.setHiLo h l).hi = h := rfl
@[simp] theorem State.setHiLo_lo (s : State) (h l : Word) : (s.setHiLo h l).lo = l := rfl
@[simp] theorem State.setHiLo_pc (s : State) (h l : Word) : (s.setHiLo h l).pc = s.pc := rfl
@[simp] theorem State.setHiLo_npc (s : State) (h l : Word) : (s.setHiLo h l).npc = s.npc := rfl
@[simp] theorem State.setHiLo_mem (s : State) (h l : Word) : (s.setHiLo h l).mem = s.mem := rfl
@[simp] theorem State.setHiLo_breakpoints (s : State) (h l : Word) : (s.setHiLo h l).breakpoints = s.breakpoints := rfl
@[simp] theorem State.setHiLo_pendingRearm (s : State) (h l : Word) : (s.setHiLo h l).pendingRearm = s.pendingRearm := rfl
@[simp] theorem State.setHiLo_runState (s : State) (h l : Word) : (s.setHiLo h l).runState = s.runState := rfl
@[simp] theorem State.setHiLo_config (s : State) (h l : Word) : (s.setHiLo h l).config = s.config := rfl
@[simp] theorem State.setHiLo_lastStop (s : State) (h l : Word) : (s.setHiLo h l).lastStop = s.lastStop := rfl
@[simp] theorem State.setHiLo_reports (s : State) (h l : Word) : (s.setHiLo h l).reports = s.reports := rfl
@[simp] theorem State.setHiLo_outputs (s : State) (h l : Word) : (s.setHiLo h l).outputs = s.outputs := rfl
@[simp] theorem State.setHiLo_intInputs (s : State) (h l : Word) : (s.setHiLo h l).intInputs = s.intInputs := rfl
@[simp] theorem State.setHiLo_lineInputs (s : State) (h l : Word) : (s.setHiLo h l).lineInputs = s.lineInputs := rfl
@[simp] theorem State.setHiLo_draws (s : State) (h l : Word) : (s.setHiLo h l).draws = s.draws := rfl
@[simp] theorem State.readReg_setHiLo (s : State) (h l : Word) (j : RegIdx) : (s.setHiLo h l).readReg j = s.readReg j := rfl

@[simp] theorem State.setHi_regs (s : State) (h : Word) : (s.setHi h).regs = s.regs := rfl
@[simp] theorem State.setHi_hi (s : State) (h : Word) : (s.setHi h).hi = h := rfl
@[simp] theorem State.setHi_lo (s : State) (h : Word) : (s.setHi h).lo = s.lo := rfl
@[simp] theorem State.setHi_pc (s : State) (h : Word) : (s.setHi h).pc = s.pc := rfl
@[simp] theorem State.setHi_npc (s : State) (h : Word) : (s.setHi h).npc = s.npc := rfl
@[simp] theorem State.setHi_mem (s : State) (h : Word) : (s.setHi h).mem = s.mem := rfl
@[simp] theorem State.setHi_breakpoints (s : State) (h : Word) : (s.setHi h).breakpoints = s.breakpoints := rfl
@[simp] theorem State.setHi_pendingRearm (s : State) (h : Word) : (s.setHi h).pendingRearm = s.pendingRearm := rfl
@[simp] theorem State.setHi_runState (s : State) (h : Word) : (s.setHi h).runState = s.runState := rfl
@[simp] theorem State.setHi_config (s : State) (h : Word) : (s.setHi h).config = s.config := rfl
@[simp] theorem State.setHi_lastStop (s : State) (h : Word) : (s.setHi h).lastStop = s.lastStop := rfl
@[simp] theorem State.setHi_reports (s : State) (h : Word) : (s.setHi h).reports = s.reports := rfl
@[simp] theorem State.setHi_outputs (s : State) (h : Word) : (s.setHi h).outputs = s.outputs := rfl
@[simp] theorem State.setHi_intInputs (s : State) (h : Word) : (s.setHi h).intInputs = s.intInputs := rfl
@[simp] theorem State.setHi_lineInputs (s : State) (h : Word) : (s.setHi h).lineInputs = s.lineInputs := rfl
@[simp] theorem State.setHi_draws (s : State) (h : Word) : (s.setHi h).draws = s.draws := rfl
@[simp] theorem State.readReg_setHi (s : State) (h : Word) (j : RegIdx) : (s.setHi h).readReg j = s.readReg j := rfl

@[simp] theorem State.setLo_regs (s : State) (l : Word) : (s.setLo l).regs = s.regs := rfl
@[simp] theorem State.setLo_hi (s : State) (l : Word) : (s.setLo l).hi = s.hi := rfl
@[simp] theorem State.setLo_lo (s : State) (l : Word) : (s.setLo l).lo = l := rfl
@[simp] theorem State.setLo_pc (s : State) (l : Word) : (s.setLo l).pc = s.pc := rfl
@[simp] theorem State.setLo_npc (s : State) (l : Word) : (s.setLo l).npc = s.npc := rfl
@[simp] theorem State.setLo_mem (s : State) (l : Word) : (s.setLo l).mem = s.mem := rfl
@[simp] theorem State.setLo_breakpoints (s : State) (l : Word) : (s.setLo l).breakpoints = s.breakpoints := rfl
@[simp] theorem State.setLo_pendingRearm (s : State) (l : Word) : (s.setLo l).pendingRearm = s.pendingRearm := rfl
@[simp] theorem State.setLo_runState (s : State) (l : Word) : (s.setLo l).runState = s.runState := rfl
@[simp] theorem State.setLo_config (s : State) (l : Word) : (s.setLo l).config = s.config := rfl
@[simp] theorem State.setLo_lastStop (s : State) (l : Word) : (s.setLo l).lastStop = s.lastStop := rfl
@[simp] theorem State.setLo_reports (s : State) (l : Word) : (s.setLo l).reports = s.reports := rfl
@[simp] theorem State.setLo_outputs (s : State) (l : Word) : (s.setLo l).outputs = s.outputs := rfl
@[simp] theorem State.setLo_intInputs (s : State) (l : Word) : (s.setLo l).intInputs = s.intInputs := rfl
@[simp] theorem State.setLo_lineInputs (s : State) (l : Word) : (s.setLo l).lineInputs = s.lineInputs := rfl
@[simp] theorem State.setLo_draws (s : State) (l : Word) : (s.setLo l).draws = s.draws := rfl
@[simp] theorem State.readReg_setLo (s : State) (l : Word) (j : RegIdx) : (s.setLo l).readReg j = s.readReg j := rfl

@[simp] theorem State.setMem_regs (s : State) (m : Memory) : (s.setMem m).regs = s.regs := rfl
@[simp] theorem State.setMem_hi (s : State) (m : Memory) : (s.setMem m).hi = s.hi := rfl
@[simp] theorem State.setMem_lo (s : State) (m : Memory) : (s.setMem m).lo = s.lo := rfl
@[simp] theorem State.setMem_pc (s : State) (m : Memory) : (s.setMem m).pc = s.pc := rfl
@[simp] theorem State.setMem_npc (s : State) (m : Memory) : (s.setMem m).npc = s.npc := rfl
@[simp] theorem State.setMem_mem (s : State) (m : Memory) : (s.setMem m).mem = m := rfl
@[simp] theorem State.setMem_breakpoints (s : State) (m : Memory) : (s.setMem m).breakpoints = s.breakpoints := rfl
@[simp] theorem State.setMem_pendingRearm (s : State) (m : Memory) : (s.setMem m).pendingRearm = s.pendingRearm := rfl
@[simp] theorem State.setMem_runState (s : State) (m : Memory) : (s.setMem m).runState = s.runState := rfl
@[simp] theorem State.setMem_config (s : State) (m : Memory) : (s.setMem m).config = s.config := rfl
@[simp] theorem State.setMem_lastStop (s : State) (m : Memory) : (s.setMem m).lastStop = s.lastStop := rfl
@[simp] theorem State.setMem_reports (s : State) (m : Memory) : (s.setMem m).reports = s.reports := rfl
@[simp] theorem State.setMem_outputs (s : State) (m : Memory) : (s.setMem m).outputs = s.outputs := rfl
@[simp] theorem State.setMem_intInputs (s : State) (m : Memory) : (s.setMem m).intInputs = s.intInputs := rfl
@[simp] theorem State.setMem_lineInputs (s : State) (m : Memory) : (s.setMem m).lineInputs = s.lineInputs := rfl
@[simp] theorem State.setMem_draws (s : State) (m : Memory) : (s.setMem m).draws = s.draws := rfl
@[simp] theorem State.readReg_setMem (s : State) (m : Memory) (j : RegIdx) : (s.setMem m).readReg j = s.readReg j := rfl

@[simp] theorem State.report_regs (s : State) (p : Word) (c : TrapCause) : (s.report p c).regs = s.regs := rfl
@[simp] theorem State.report_hi (s : State) (p : Word) (c : TrapCause) : (s.report p c).hi = s.hi := rfl
@[simp] theorem State.report_lo (s : State) (p : Word) (c : TrapCause) : (s.report p c).lo = s.lo := rfl
@[simp] theorem State.report_pc (s : State) (p : Word) (c : TrapCause) : (s.report p c).pc = s.pc := rfl
@[simp] theorem State.report_npc (s : State) (p : Word) (c : TrapCause) : (s.report p c).npc = s.npc := rfl
@[simp] theorem State.report_mem (s : State) (p : Word) (c : TrapCause) : (s.report p c).mem = s.mem := rfl
@[simp] theorem State.report_breakpoints (s : State) (p : Word) (c : TrapCause) : (s.report p c).breakpoints = s.breakpoints := rfl
@[simp] theorem State.report_pendingRearm (s : State) (p : Word) (c : TrapCause) : (s.report p c).pendingRearm = s.pendingRearm := rfl
@[simp] theorem State.report_runState (s : State) (p : Word) (c : TrapCause) : (s.report p c).runState = s.runState := rfl
@[simp] theorem State.report_config (s : State) (p : Word) (c : TrapCause) : (s.report p c).config = s.config := rfl
@[simp] theorem State.report_lastStop (s : State) (p : Word) (c : TrapCause) : (s.report p c).lastStop = s.lastStop := rfl
@[simp] theorem State.report_reports (s : State) (p : Word) (c : TrapCause) : (s.report p c).reports = s.reports ++ [⟨p, c⟩] := rfl
@[simp] theorem State.report_outputs (s : State) (p : Word) (c : TrapCause) : (s.report p c).outputs = s.outputs := rfl
@[simp] theorem State.report_intInputs (s : State) (p : Word) (c : TrapCause) : (s.report p c).intInputs = s.intInputs := rfl
@[simp] theorem State.report_lineInputs (s : State) (p : Word) (c : TrapCause) : (s.report p c).lineInputs = s.lineInputs := rfl
@[simp] theorem State.report_draws (s : State) (p : Word) (c : TrapCause) : (s.report p c).draws = s.draws := rfl
@[simp] theorem State.readReg_report (s : State) (p : Word) (c : TrapCause) (j : RegIdx) : (s.report p c).readReg j = s.readReg j := rfl

@[simp] theorem State.emit_regs (s : State) (o : EnvOutput) : (s.emit o).regs = s.regs := rfl
@[simp] theorem State.emit_hi (s : State) (o : EnvOutput) : (s.emit o).hi = s.hi := rfl
@[simp] theorem State.emit_lo (s : State) (o : EnvOutput) : (s.emit o).lo = s.lo := rfl
@[simp] theorem State.emit_pc (s : State) (o : EnvOutput) : (s.emit o).pc = s.pc := rfl
@[simp] theorem State.emit_npc (s : State) (o : EnvOutput) : (s.emit o).npc = s.npc := rfl
@[simp] theorem State.emit_mem (s : State) (o : EnvOutput) : (s.emit o).mem = s.mem := rfl
@[simp] theorem State.emit_breakpoints (s : State) (o : EnvOutput) : (s.emit o).breakpoints = s.breakpoints := rfl
@[simp] theorem State.emit_pendingRearm (s : State) (o : EnvOutput) : (s.emit o).pendingRearm = s.pendingRearm := rfl
@[simp] theorem State.emit_runState (s : State) (o : EnvOutput) : (s.emit o).runState = s.runState := rfl
@[simp] theorem State.emit_config (s : State) (o : EnvOutput) : (s.emit o).config = s.config := rfl
@[simp] theorem State.emit_lastStop (s : State) (o : EnvOutput) : (s.emit o).lastStop = s.lastStop := rfl
@[simp] theorem State.emit_reports (s : State) (o : EnvOutput) : (s.emit o).reports = s.reports := rfl
@[simp] theorem State.emit_outputs (s : State) (o : EnvOutput) : (s.emit o).outputs = s.outputs ++ [o] := rfl
@[simp] theorem State.emit_intInputs (s : State) (o : EnvOutput) : (s.emit o).intInputs = s.intInputs := rfl
@[simp] theorem State.emit_lineInputs (s : State) (o : EnvOutput) : (s.emit o).lineInputs = s.lineInputs := rfl
@[simp] theorem State.emit_draws (s : State) (o : EnvOutput) : (s.emit o).draws = s.draws := rfl
@[simp] theorem State.readReg_emit (s : State) (o : EnvOutput) (j : RegIdx) : (s.emit o).readReg j = s.readReg j := rfl

@[simp] theorem State.stop_regs (s : State) (r : RunState) (e : Stop) : (s.stop r e).regs = s.regs := rfl
@[simp] theorem State.stop_hi (s : State) (r : RunState) (e : Stop) : (s.stop r e).hi = s.hi := rfl
@[simp] theorem State.stop_lo (s : State) (r : RunState) (e : Stop) : (s.stop r e).lo = s.lo := rfl
@[simp] theorem State.stop_pc (s : State) (r : RunState) (e : Stop) : (s.stop r e).pc = s.pc := rfl
@[simp] theorem State.stop_npc (s : State) (r : RunState) (e : Stop) : (s.stop r e).npc = s.npc := rfl
@[simp] theorem State.stop_mem (s : State) (r : RunState) (e : Stop) : (s.stop r e).mem = s.mem := rfl
@[simp] theorem State.stop_breakpoints (s : State) (r : RunState) (e : Stop) : (s.stop r e).breakpoints = s.breakpoints := rfl
@[simp] theorem State.stop_pendingRearm (s : State) (r : RunState) (e : Stop) : (s.stop r e).pendingRearm = s.pendingRearm := rfl
@[simp] theorem State.stop_runState (s : State) (r : RunState) (e : Stop) : (s.stop r e).runState = r := rfl
@[simp] theorem State.stop_config (s : State) (r : RunState) (e : Stop) : (s.stop r e).config = s.config := rfl
@[simp] theorem State.stop_lastStop (s : State) (r : RunState) (e : Stop) : (s.stop r e).lastStop = some e := rfl
@[simp] theorem State.stop_reports (s : State) (r : RunState) (e : Stop) : (s.stop r e).reports = s.reports := rfl
@[simp] theorem State.stop_outputs (s : State) (r : RunState) (e : Stop) : (s.stop r e).outputs = s.outputs := rfl
@[simp] theorem State.stop_intInputs (s : State) (r : RunState) (e : Stop) : (s.stop r e).intInputs = s.intInputs := rfl
@[simp] theorem State.stop_lineInputs (s : State) (r : RunState) (e : Stop) : (s.stop r e).lineInputs = s.lineInputs := rfl
@[simp] theorem State.stop_draws (s : State) (r : RunState) (e : Stop) : (s.stop r e).draws = s.draws := rfl
@[simp] theorem State.readReg_stop (s : State) (r : RunState) (e : Stop) (j : RegIdx) : (s.stop r e).readReg j = s.readReg j := rfl

@[simp] theorem State.advanceTo_regs (s : State) (t : Word) : (s.advanceTo t).regs = s.regs := rfl
@[simp] theorem State.advanceTo_hi (s : State) (t : Word) : (s.advanceTo t).hi = s.hi := rfl
@[simp] theorem State.advanceTo_lo (s : State) (t : Word) : (s.advanceTo t).lo = s.lo := rfl
@[simp] theorem State.advanceTo_pc (s : State) (t : Word) : (s.advanceTo t).pc = s.npc := rfl
@[simp] theorem State.advanceTo_npc (s : State) (t : Word) : (s.advanceTo t).npc = t := rfl
@[simp] theorem State.advanceTo_mem (s : State) (t : Word) : (s.advanceTo t).mem = s.mem := rfl
@[simp] theorem State.advanceTo_breakpoints (s : State) (t : Word) : (s.advanceTo t).breakpoints = s.breakpoints := rfl
@[simp] theorem State.advanceTo_pendingRearm (s : State) (t : Word) : (s.advanceTo t).pendingRearm = s.pendingRearm := rfl
@[simp] theorem State.advanceTo_runState (s : State) (t : Word) : (s.advanceTo t).runState = s.runState := rfl
@[simp] theorem State.advanceTo_config (s : State) (t : Word) : (s.advanceTo t).config = s.config := rfl
@[simp] theorem State.advanceTo_lastStop (s : State) (t : Word) : (s.advanceTo t).lastStop = none := rfl
@[simp] theorem State.advanceTo_reports (s : State) (t : Word) : (s.advanceTo t).reports = s.reports := rfl
@[simp] theorem State.advanceTo_outputs (s : State) (t : Word) : (s.advanceTo t).outputs = s.outputs := rfl
@[simp] theorem State.advanceTo_intInputs (s : State) (t : Word) : (s.advanceTo t).intInputs = s.intInputs := rfl
@[simp] theorem State.advanceTo_lineInputs (s : State) (t : Word) : (s.advanceTo t).lineInputs = s.lineInputs := rfl
@[simp] theorem State.advanceTo_draws (s : State) (t : Word) : (s.advanceTo t).draws = s.draws := rfl
@[simp] theorem State.readReg_advanceTo (s : State) (t : Word) (j : RegIdx) : (s.advanceTo t).readReg j = s.readReg j := rfl

@[simp] theorem State.breakpointStop_regs (s : State) : (s.breakpointStop).regs = s.regs := rfl
@[simp] theorem State.breakpointStop_hi (s : State) : (s.breakpointStop).hi = s.hi := rfl
@[simp] theorem State.breakpointStop_lo (s : State) : (s.breakpointStop).lo = s.lo := rfl
@[simp] theorem State.breakpointStop_pc (s : State) : (s.breakpointStop).pc = s.pc := rfl
@[simp] theorem State.breakpointStop_npc (s : State) : (s.breakpointStop).npc = s.npc := rfl
@[simp] theorem State.breakpointStop_mem (s : State) : (s.breakpointStop).mem = s.mem := rfl
@[simp] theorem State.breakpointStop_breakpoints (s : State) : (s.breakpointStop).breakpoints = BreakSet.erase s.breakpoints s.pc := rfl
@[simp] theorem State.breakpointStop_pendingRearm (s : State) : (s.breakpointStop).pendingRearm = some s.pc := rfl
@[simp] theorem State.breakpointStop_runState (s : State) : (s.breakpointStop).runState = s.runState := rfl
@[simp] theorem State.breakpointStop_config (s : State) : (s.breakpointStop).config = s.config := rfl
@[simp] theorem State.breakpointStop_lastStop (s : State) : (s.breakpointStop).lastStop = some (.breakpoint s.pc) := rfl
@[simp] theorem State.breakpointStop_reports (s : State) : (s.breakpointStop).reports = s.reports := rfl
@[simp] theorem State.breakpointStop_outputs (s : State) : (s.breakpointStop).outputs = s.outputs := rfl
@[simp] theorem State.breakpointStop_intInputs (s : State) : (s.breakpointStop).intInputs = s.intInputs := rfl
@[simp] theorem State.breakpointStop_lineInputs (s : State) : (s.breakpointStop).lineInputs = s.lineInputs := rfl
@[simp] theorem State.breakpointStop_draws (s : State) : (s.breakpointStop).draws = s.draws := rfl
@[simp] theorem State.readReg_breakpointStop (s : State) (j : RegIdx) : (s.breakpointStop).readReg j = s.readReg j := rfl

@[simp] theorem State.drawHiLo_regs (s : State) : (s.drawHiLo).regs = s.regs := rfl
@[simp] theorem State.drawHiLo_hi (s : State) : (s.drawHiLo).hi = Config.freeWord s.draws := rfl
@[simp] theorem State.drawHiLo_lo (s : State) : (s.drawHiLo).lo = Config.freeWord (s.draws + 1) := rfl
@[simp] theorem State.drawHiLo_pc (s : State) : (s.drawHiLo).pc = s.pc := rfl
@[simp] theorem State.drawHiLo_npc (s : State) : (s.drawHiLo).npc = s.npc := rfl
@[simp] theorem State.drawHiLo_mem (s : State) : (s.drawHiLo).mem = s.mem := rfl
@[simp] theorem State.drawHiLo_breakpoints (s : State) : (s.drawHiLo).breakpoints = s.breakpoints := rfl
@[simp] theorem State.drawHiLo_pendingRearm (s : State) : (s.drawHiLo).pendingRearm = s.pendingRearm := rfl
@[simp] theorem State.drawHiLo_runState (s : State) : (s.drawHiLo).runState = s.runState := rfl
@[simp] theorem State.drawHiLo_config (s : State) : (s.drawHiLo).config = s.config := rfl
@[simp] theorem State.drawHiLo_lastStop (s : State) : (s.drawHiLo).lastStop = s.lastStop := rfl
@[simp] theorem State.drawHiLo_reports (s : State) : (s.drawHiLo).reports = s.reports := rfl
@[simp] theorem State.drawHiLo_outputs (s : State) : (s.drawHiLo).outputs = s.outputs := rfl
@[simp] theorem State.drawHiLo_intInputs (s : State) : (s.drawHiLo).intInputs = s.intInputs := rfl
@[simp] theorem State.drawHiLo_lineInputs (s : State) : (s.drawHiLo).lineInputs = s.lineInputs := rfl
@[simp] theorem State.drawHiLo_draws (s : State) : (s.drawHiLo).draws = s.draws + 2 := rfl
@[simp] theorem State.readReg_drawHiLo (s : State) (j : RegIdx) : (s.drawHiLo).readReg j = s.readReg j := rfl

@[simp] theorem State.pause_regs (s : State) : (s.pause).regs = s.regs := rfl
@[simp] theorem State.pause_hi (s : State) : (s.pause).hi = s.hi := rfl
@[simp] theorem State.pause_lo (s : State) : (s.pause).lo = s.lo := rfl
@[simp] theorem State.pause_pc (s : State) : (s.pause).pc = s.pc := rfl
@[simp] theorem State.pause_npc (s : State) : (s.pause).npc = s.npc := rfl
@[simp] theorem State.pause_mem (s : State) : (s.pause).mem = s.mem := rfl
@[simp] theorem State.pause_breakpoints (s : State) : (s.pause).breakpoints = s.breakpoints := rfl
@[simp] theorem State.pause_pendingRearm (s : State) : (s.pause).pendingRearm = s.pendingRearm := rfl
@[simp] theorem State.pause_runState (s : State) : (s.pause).runState = .paused := rfl
@[simp] theorem State.pause_config (s : State) : (s.pause).config = s.config := rfl
@[simp] theorem State.pause_lastStop (s : State) : (s.pause).lastStop = s.lastStop := rfl
@[simp] theorem State.pause_reports (s : State) : (s.pause).reports = s.reports := rfl
@[simp] theorem State.pause_outputs (s : State) : (s.pause).outputs = s.outputs := rfl
@[simp] theorem State.pause_intInputs (s : State) : (s.pause).intInputs = s.intInputs := rfl
@[simp] theorem State.pause_lineInputs (s : State) : (s.pause).lineInputs = s.lineInputs := rfl
@[simp] theorem State.pause_draws (s : State) : (s.pause).draws = s.draws := rfl
@[simp] theorem State.readReg_pause (s : State) (j : RegIdx) : (s.pause).readReg j = s.readReg j := rfl

/-! ## The two composed updates -/

@[simp] theorem State.advance_regs (s : State) : s.advance.regs = s.regs := rfl
@[simp] theorem State.advance_hi (s : State) : s.advance.hi = s.hi := rfl
@[simp] theorem State.advance_lo (s : State) : s.advance.lo = s.lo := rfl
@[simp] theorem State.advance_pc (s : State) : s.advance.pc = s.npc := rfl
@[simp] theorem State.advance_npc (s : State) : s.advance.npc = s.npc + 4#32 := rfl
@[simp] theorem State.advance_mem (s : State) : s.advance.mem = s.mem := rfl
@[simp] theorem State.advance_breakpoints (s : State) : s.advance.breakpoints = s.breakpoints := rfl
@[simp] theorem State.advance_pendingRearm (s : State) : s.advance.pendingRearm = s.pendingRearm := rfl
@[simp] theorem State.advance_runState (s : State) : s.advance.runState = s.runState := rfl
@[simp] theorem State.advance_config (s : State) : s.advance.config = s.config := rfl
@[simp] theorem State.advance_lastStop (s : State) : s.advance.lastStop = none := rfl
@[simp] theorem State.advance_reports (s : State) : s.advance.reports = s.reports := rfl
@[simp] theorem State.advance_outputs (s : State) : s.advance.outputs = s.outputs := rfl
@[simp] theorem State.advance_intInputs (s : State) : s.advance.intInputs = s.intInputs := rfl
@[simp] theorem State.advance_lineInputs (s : State) : s.advance.lineInputs = s.lineInputs := rfl
@[simp] theorem State.advance_draws (s : State) : s.advance.draws = s.draws := rfl
@[simp] theorem State.readReg_advance (s : State) (j : RegIdx) : s.advance.readReg j = s.readReg j := rfl

@[simp] theorem State.link_hi (s : State) : s.link.hi = s.hi := rfl
@[simp] theorem State.link_lo (s : State) : s.link.lo = s.lo := rfl
@[simp] theorem State.link_pc (s : State) : s.link.pc = s.pc := rfl
@[simp] theorem State.link_npc (s : State) : s.link.npc = s.npc := rfl
@[simp] theorem State.link_mem (s : State) : s.link.mem = s.mem := rfl
@[simp] theorem State.link_breakpoints (s : State) : s.link.breakpoints = s.breakpoints := rfl
@[simp] theorem State.link_pendingRearm (s : State) : s.link.pendingRearm = s.pendingRearm := rfl
@[simp] theorem State.link_runState (s : State) : s.link.runState = s.runState := rfl
@[simp] theorem State.link_config (s : State) : s.link.config = s.config := rfl
@[simp] theorem State.link_lastStop (s : State) : s.link.lastStop = s.lastStop := rfl
@[simp] theorem State.link_reports (s : State) : s.link.reports = s.reports := rfl
@[simp] theorem State.link_outputs (s : State) : s.link.outputs = s.outputs := rfl
@[simp] theorem State.link_intInputs (s : State) : s.link.intInputs = s.intInputs := rfl
@[simp] theorem State.link_lineInputs (s : State) : s.link.lineInputs = s.lineInputs := rfl
@[simp] theorem State.link_draws (s : State) : s.link.draws = s.draws := rfl
theorem State.readReg_link (s : State) (j : RegIdx) :
    s.link.readReg j = if j = 31#5 then linkValue s else s.readReg j := by
  simp [State.link, State.readReg_writeReg]

/-! ## Draws -/

@[simp] theorem State.drawInt_regs (s : State) : s.drawInt.2.regs = s.regs := by
  unfold State.drawInt; split <;> rfl
@[simp] theorem State.drawInt_hi (s : State) : s.drawInt.2.hi = s.hi := by
  unfold State.drawInt; split <;> rfl
@[simp] theorem State.drawInt_lo (s : State) : s.drawInt.2.lo = s.lo := by
  unfold State.drawInt; split <;> rfl
@[simp] theorem State.drawInt_pc (s : State) : s.drawInt.2.pc = s.pc := by
  unfold State.drawInt; split <;> rfl
@[simp] theorem State.drawInt_npc (s : State) : s.drawInt.2.npc = s.npc := by
  unfold State.drawInt; split <;> rfl
@[simp] theorem State.drawInt_mem (s : State) : s.drawInt.2.mem = s.mem := by
  unfold State.drawInt; split <;> rfl
@[simp] theorem State.drawInt_breakpoints (s : State) : s.drawInt.2.breakpoints = s.breakpoints := by
  unfold State.drawInt; split <;> rfl
@[simp] theorem State.drawInt_pendingRearm (s : State) : s.drawInt.2.pendingRearm = s.pendingRearm := by
  unfold State.drawInt; split <;> rfl
@[simp] theorem State.drawInt_runState (s : State) : s.drawInt.2.runState = s.runState := by
  unfold State.drawInt; split <;> rfl
@[simp] theorem State.drawInt_config (s : State) : s.drawInt.2.config = s.config := by
  unfold State.drawInt; split <;> rfl
@[simp] theorem State.drawInt_lastStop (s : State) : s.drawInt.2.lastStop = s.lastStop := by
  unfold State.drawInt; split <;> rfl
@[simp] theorem State.drawInt_reports (s : State) : s.drawInt.2.reports = s.reports := by
  unfold State.drawInt; split <;> rfl
@[simp] theorem State.drawInt_outputs (s : State) : s.drawInt.2.outputs = s.outputs := by
  unfold State.drawInt; split <;> rfl
@[simp] theorem State.drawInt_lineInputs (s : State) : s.drawInt.2.lineInputs = s.lineInputs := by
  unfold State.drawInt; split <;> rfl
@[simp] theorem State.readReg_drawInt (s : State) (j : RegIdx) : s.drawInt.2.readReg j = s.readReg j := by
  simp [State.readReg]

@[simp] theorem State.drawLine_regs (s : State) : s.drawLine.2.regs = s.regs := by
  unfold State.drawLine; split <;> rfl
@[simp] theorem State.drawLine_hi (s : State) : s.drawLine.2.hi = s.hi := by
  unfold State.drawLine; split <;> rfl
@[simp] theorem State.drawLine_lo (s : State) : s.drawLine.2.lo = s.lo := by
  unfold State.drawLine; split <;> rfl
@[simp] theorem State.drawLine_pc (s : State) : s.drawLine.2.pc = s.pc := by
  unfold State.drawLine; split <;> rfl
@[simp] theorem State.drawLine_npc (s : State) : s.drawLine.2.npc = s.npc := by
  unfold State.drawLine; split <;> rfl
@[simp] theorem State.drawLine_mem (s : State) : s.drawLine.2.mem = s.mem := by
  unfold State.drawLine; split <;> rfl
@[simp] theorem State.drawLine_breakpoints (s : State) : s.drawLine.2.breakpoints = s.breakpoints := by
  unfold State.drawLine; split <;> rfl
@[simp] theorem State.drawLine_pendingRearm (s : State) : s.drawLine.2.pendingRearm = s.pendingRearm := by
  unfold State.drawLine; split <;> rfl
@[simp] theorem State.drawLine_runState (s : State) : s.drawLine.2.runState = s.runState := by
  unfold State.drawLine; split <;> rfl
@[simp] theorem State.drawLine_config (s : State) : s.drawLine.2.config = s.config := by
  unfold State.drawLine; split <;> rfl
@[simp] theorem State.drawLine_lastStop (s : State) : s.drawLine.2.lastStop = s.lastStop := by
  unfold State.drawLine; split <;> rfl
@[simp] theorem State.drawLine_reports (s : State) : s.drawLine.2.reports = s.reports := by
  unfold State.drawLine; split <;> rfl
@[simp] theorem State.drawLine_outputs (s : State) : s.drawLine.2.outputs = s.outputs := by
  unfold State.drawLine; split <;> rfl
@[simp] theorem State.drawLine_intInputs (s : State) : s.drawLine.2.intInputs = s.intInputs := by
  unfold State.drawLine; split <;> rfl
@[simp] theorem State.readReg_drawLine (s : State) (j : RegIdx) : s.drawLine.2.readReg j = s.readReg j := by
  simp [State.readReg]

/-! ## Restoring a clone (50_step_cycle.md R242; log 18) -/

@[simp] theorem restoreClone_regs (c s : State) : (restoreClone c s).regs = c.regs := rfl
@[simp] theorem restoreClone_hi (c s : State) : (restoreClone c s).hi = c.hi := rfl
@[simp] theorem restoreClone_lo (c s : State) : (restoreClone c s).lo = c.lo := rfl
@[simp] theorem restoreClone_pc (c s : State) : (restoreClone c s).pc = c.pc := rfl
@[simp] theorem restoreClone_npc (c s : State) : (restoreClone c s).npc = c.npc := rfl
@[simp] theorem restoreClone_mem (c s : State) : (restoreClone c s).mem = c.mem := rfl
@[simp] theorem restoreClone_breakpoints (c s : State) : (restoreClone c s).breakpoints = c.breakpoints := rfl
@[simp] theorem restoreClone_pendingRearm (c s : State) : (restoreClone c s).pendingRearm = c.pendingRearm := rfl
@[simp] theorem restoreClone_runState (c s : State) : (restoreClone c s).runState = c.runState := rfl
@[simp] theorem restoreClone_config (c s : State) : (restoreClone c s).config = c.config := rfl
@[simp] theorem restoreClone_lastStop (c s : State) : (restoreClone c s).lastStop = s.lastStop := rfl
@[simp] theorem restoreClone_reports (c s : State) : (restoreClone c s).reports = s.reports := rfl
@[simp] theorem restoreClone_outputs (c s : State) : (restoreClone c s).outputs = s.outputs := rfl
@[simp] theorem restoreClone_intInputs (c s : State) : (restoreClone c s).intInputs = s.intInputs := rfl
@[simp] theorem restoreClone_lineInputs (c s : State) : (restoreClone c s).lineInputs = s.lineInputs := rfl
@[simp] theorem restoreClone_draws (c s : State) : (restoreClone c s).draws = s.draws + 1 := rfl

end Sys2Proof.Machine
end

