-- ==== Sys2Proof/Laws/Effects.lean ====
section
/-! SUPPORT. What each shared operation does, said once: a proof about an instruction cites these and unfolds no
operation. -/

namespace Sys2Proof.Machine

/-! ## Decoding -/

/-- With all instructions present and unused fields ignored, the tables alone decide. -/
theorem readsAs_of_decodeFields {w : Word} {i : Instr} (h : decodeFields w = some i) : ReadsAs w i := by
  intro c hu hz
  rw [decode_lenient hu hz, h]

/-! ## Ends of an instruction -/

theorem sameControl_refl (s : State) : SameControl s s := ⟨rfl, rfl, rfl⟩

theorem sameEnv_refl (s : State) : SameEnv s s := ⟨rfl, rfl, rfl, rfl⟩

/-- An update that leaves control, environment and reports alone is quiet once the pair has moved. -/
theorem quiet_advanceTo {s u : State} (target : Word) (hc : SameControl s u) (he : SameEnv s u)
    (hr : u.runState = s.runState) (hp : u.reports = s.reports) : Quiet s (u.advanceTo target) :=
  ⟨hc, ⟨hr, rfl⟩, he, hp⟩

theorem sequential_advance {s u : State} (h : u.npc = s.npc) : Sequential s u.advance := by
  refine ⟨h, ?_⟩
  show (u.npc + 4#32).toNat = _
  rw [h, BitVec.toNat_add]
  rfl

theorem oneReg_writeReg (s : State) (rd : RegIdx) (v : Word) : OneReg s (s.writeReg rd v) rd v :=
  fun r => State.readReg_writeReg s rd r v

/-- `x[rd] <- v`, then `next`. -/
theorem proceed_writeReg (s : State) (rd : RegIdx) (v : Word) :
    ∃ t, proceed (s.writeReg rd v) = .next t ∧ RegisterWritten s t rd v :=
  ⟨_, rfl, oneReg_writeReg s rd v, ⟨rfl, rfl⟩, fun _ => rfl, sequential_advance rfl,
    quiet_advanceTo _ (sameControl_refl s) (sameEnv_refl s) rfl rfl⟩

/-- `hi <- h`, `lo <- l`, then `next`. -/
theorem proceed_setHiLo (s : State) (h l : Word) :
    ∃ t, proceed (s.setHiLo h l) = .next t ∧ HiLoWritten s t h l :=
  ⟨_, rfl, rfl, rfl, fun _ => rfl, fun _ => rfl, sequential_advance rfl,
    quiet_advanceTo _ (sameControl_refl s) (sameEnv_refl s) rfl rfl⟩

/-- Bytes stored, then `next`. -/
theorem proceed_setBytes (s : State) (a : Word) (bs : List Byte) (hl : bs.length ≤ 2 ^ 32) :
    ∃ t, proceed (s.setMem (s.mem.setBytes a bs)) = .next t ∧ MemoryStored s t a bs :=
  ⟨_, rfl,
    ⟨fun k h => Memory.getByte_setBytes s.mem a bs k h hl,
      fun b h => Memory.getByte_setBytes_of_not_mem s.mem a b bs h⟩,
    fun _ => rfl, ⟨rfl, rfl⟩, sequential_advance rfl,
    quiet_advanceTo _ (sameControl_refl s) (sameEnv_refl s) rfl rfl⟩

/-- A control transfer alone. -/
theorem advanceTo_only (s : State) (target : Word) : OnlyTransferred s (s.advanceTo target) target :=
  ⟨⟨rfl, rfl⟩, fun _ => rfl, ⟨rfl, rfl⟩, fun _ => rfl,
    quiet_advanceTo _ (sameControl_refl s) (sameEnv_refl s) rfl rfl⟩

/-- `next` alone. -/
theorem proceed_only (s : State) :
    ∃ t, proceed s = .next t ∧ OnlyTransferred s t (u32 (s.npc.toNat + 4)) :=
  ⟨_, rfl, by
    have h : u32 (s.npc.toNat + 4) = s.npc + 4#32 := (add_lit s.npc 4).symm
    rw [h]
    exact advanceTo_only s _⟩

/-- A branch, taken or not. -/
theorem branchIf_only (cond : Bool) (imm : Imm16) (s : State) :
    ∃ t, branchIf cond imm s = .next t ∧
      OnlyTransferred s t (u32 (s.npc.toNat + if cond then 4 * imm.toInt else 4)) := by
  cases cond with
  | false => exact proceed_only s
  | true => exact ⟨_, rfl, by rw [if_pos rfl, ← add_branchOffset]; exact advanceTo_only s _⟩

/-- `x[rd] <- u32(pc + 8)`, then a control transfer. -/
theorem link_advanceTo (s : State) (rd : RegIdx) (target : Word) :
    LinkedAndTransferred s ((s.writeReg rd (linkValue s)).advanceTo target) rd target := by
  refine ⟨⟨rfl, rfl⟩, ?_, ⟨rfl, rfl⟩, fun _ => rfl,
    quiet_advanceTo _ (sameControl_refl s) (sameEnv_refl s) rfl rfl⟩
  have : u32 (s.pc.toNat + 8) = linkValue s := (add_lit s.pc 8).symm
  rw [this]
  exact oneReg_writeReg s rd _

/-- A linking branch, taken or not. -/
theorem branchIf_link (cond : Bool) (imm : Imm16) (s : State) :
    ∃ t, branchIf cond imm s.link = .next t ∧
      LinkedAndTransferred s t 31#5 (u32 (s.npc.toNat + if cond then 4 * imm.toInt else 4)) := by
  cases cond with
  | false =>
    refine ⟨_, rfl, ?_⟩
    have : u32 ((s.npc.toNat : Int) + if false = true then 4 * imm.toInt else 4) = s.npc + 4#32 :=
      (add_lit s.npc 4).symm
    rw [this]
    exact link_advanceTo s 31#5 _
  | true => exact ⟨_, rfl, by rw [if_pos rfl, ← add_branchOffset]; exact link_advanceTo s 31#5 _⟩

/-! ## Taking a trap, stopping -/

/-- A trap: one report, then as for `next`. -/
theorem raiseTrap_taken (cause : TrapCause) (s : State) :
    ∃ t, raiseTrap cause s = .next t ∧ TrapTaken s t cause :=
  ⟨_, rfl, rfl, sequential_advance rfl, fun _ => rfl, ⟨rfl, rfl⟩, fun _ => rfl, sameControl_refl s, ⟨rfl, rfl⟩,
    sameEnv_refl s⟩

theorem writeOrOverflow_fits {z : Int} (hz : -(2 ^ 31) ≤ z ∧ z ≤ 2 ^ 31 - 1) (cause : TrapCause) (rd : RegIdx)
    (s : State) : ∃ t, writeOrOverflow cause rd z s = .next t ∧ RegisterWritten s t rd (u32 z) := by
  have : fitsSigned z = true := by simpa [fitsSigned] using hz
  simpa [writeOrOverflow, this] using proceed_writeReg s rd (u32 z)

theorem writeOrOverflow_traps {z : Int} (hz : ¬ (-(2 ^ 31) ≤ z ∧ z ≤ 2 ^ 31 - 1)) (cause : TrapCause) (rd : RegIdx)
    (s : State) : ∃ t, writeOrOverflow cause rd z s = .next t ∧ TrapTaken s t cause := by
  have : fitsSigned z = false := by simpa [fitsSigned] using hz
  simpa [writeOrOverflow, this] using raiseTrap_taken cause s

theorem raiseEngineError_eq (k : EngineError) (s : State) : raiseEngineError k s = .next (s.failedWith k) := rfl

theorem isAligned_iff (ea : Word) (n : Nat) : isAligned ea n = true ↔ ea.toNat % n = 0 := by
  simp [isAligned]

/-! ## Jump targets -/

theorem low_bits_zero_iff (t : Word) : t.extractLsb' 0 2 = 0#2 ↔ t.toNat % 4 = 0 := by
  rw [← BitVec.toNat_inj]
  simp

theorem clear_low_bits (t : Word) : t &&& 0xFFFFFFFC#32 = u32 (t.toNat - t.toNat % 4) := by
  apply eq_u32_of_emod
  have h : t &&& 0xFFFFFFFC#32 = t >>> 2 <<< 2 := by
    ext i hi
    interval_cases i <;> simp
  have := t.isLt
  rw [h, BitVec.toNat_shiftLeft, BitVec.toNat_ushiftRight, Nat.shiftLeft_eq, Nat.shiftRight_eq_div_pow]
  omega

theorem registerTarget_aligned (c : Config) {t : Word} (h : t.toNat % 4 = 0) : registerTarget c t = .ok t :=
  if_pos ((low_bits_zero_iff t).mpr h)

theorem registerTarget_misaligned (c : Config) {t : Word} (h : t.toNat % 4 ≠ 0) :
    registerTarget c t =
      match c.jrMisaligned with
      | .engineError => .error (.misalignedJumpTarget t)
      | .truncate => .ok (u32 (t.toNat - t.toNat % 4))
      | .asIs => .ok t := by
  rw [← clear_low_bits]
  exact if_neg (mt (low_bits_zero_iff t).mp h)

theorem alignedBase_toNat (ea : Word) : (alignedBase ea).toNat = ea.toNat - ea.toNat % 4 := by
  have h := clear_low_bits ea
  have e : alignedBase ea = ea &&& 0xFFFFFFFC#32 := rfl
  have := ea.isLt
  rw [e, h, BitVec.toNat_ofInt]
  omega

/-! ## A step -/

/-- After execution: a failed state stays, every other is re-armed. -/
theorem finishStep_failed {u : State} (h : u.HasFailed) : finishStep (.next u) = .next u := by
  obtain ⟨k, h⟩ := h
  simp [finishStep, h]

theorem finishStep_rearm {u : State} (h : ¬ u.HasFailed) : finishStep (.next u) = .next u.rearm := by
  cases hu : u.runState with
  | failed k => exact absurd ⟨k, hu⟩ h
  | running | paused | halted => simp [finishStep, hu]

theorem step_active {s : State} (h : s.Active) : step s = stepActive s := by
  rcases h with h | h <;> simp [step, h]

/-- Everything a step that answers a next state can have done. -/
theorem step_cases {s t : State} (h : step s = .next t) :
    s.Active ∧
      ((s.pc ∈ s.breakpoints ∧ t = s.breakpointStop) ∨
       (s.pc ∉ s.breakpoints ∧ s.pc.toNat + 4 ≤ 2 ^ 32 ∧ ∃ u,
          execDecoded (decode s.config s.fetchWord) s = .next u ∧
          ((u.HasFailed ∧ t = u) ∨ (¬ u.HasFailed ∧ t = u.rearm)))) := by
  have hact : s.Active := by
    cases hs : s.runState <;> simp_all [step, State.Active]
  refine ⟨hact, ?_⟩
  rw [step_active hact] at h
  unfold stepActive at h
  split at h
  · next hb => exact .inl ⟨hb, by simpa using h.symm⟩
  · next hb =>
    split at h
    · next hf =>
      refine .inr ⟨hb, by simpa [accessFits] using hf, ?_⟩
      cases hu : execDecoded (decode s.config s.fetchWord) s with
      | next u =>
        rw [hu] at h
        refine ⟨u, rfl, ?_⟩
        by_cases hk : u.HasFailed
        · rw [finishStep_failed hk] at h
          exact .inl ⟨hk, by simpa using h.symm⟩
        · rw [finishStep_rearm hk] at h
          exact .inr ⟨hk, by simpa using h.symm⟩
      | fault f => rw [hu] at h; simp [finishStep] at h
      | refused r => rw [hu] at h; simp [finishStep] at h
    · simp at h

/-- The step that runs an instruction. -/
theorem step_of_decode {s u : State} {i : Instr} (ha : s.Active) (hb : s.pc ∉ s.breakpoints)
    (hp : s.pc.toNat + 4 ≤ 2 ^ 32) (hd : decode s.config (s.mem.getWord s.pc) = .instr i) (hx : exec i s = .next u) :
    step s = finishStep (.next u) := by
  have hf : accessFits s.pc 4 = true := decide_eq_true hp
  rw [step_active ha, stepActive, if_neg hb, if_pos hf, State.fetchWord, hd]
  simp only [execDecoded, hx]

/-- What service 8 takes of a delivery is at most `max` bytes (46_system.md R186). -/
theorem acceptLine_length_le (keep : Bool) (line : List Byte) (max : Nat) :
    (acceptLine keep line max).length ≤ max := by
  induction line generalizing max with
  | nil => cases max <;> simp [acceptLine]
  | cons b line ih =>
    cases max with
    | zero => simp [acceptLine]
    | succ n =>
      simp only [acceptLine]
      split
      · split <;> simp
      · simpa using ih n

/-- A restored clone meets the invariant when the clone did. -/
theorem restoreClone_inv {c : State} (s : State) (h : c.Inv) : (restoreClone c s).Inv := h

end Sys2Proof.Machine
end

