-- ==== Sys2Proof/Laws/PerInstr.lean ====
section
/-! SUPPORT. Statements made per instruction. Family RowBits: the encoder puts into every word the fixed bits of
the instruction's row of opcode_table.json (columns `match` and `mask`), typed here a second time from the table. -/

namespace Sys2Proof.Laws.RowBits

/-- Column `match` of opcode_table.json. -/
def rowMatch : Instr → Word
  | .add .. => 0x00000020
  | .addi .. => 0x20000000
  | .sub .. => 0x00000022
  | .addu .. => 0x00000021
  | .addiu .. => 0x24000000
  | .subu .. => 0x00000023
  | .beq .. => 0x10000000
  | .bne .. => 0x14000000
  | .blez .. => 0x18000000
  | .bgtz .. => 0x1C000000
  | .bltz .. => 0x04000000
  | .bgez .. => 0x04010000
  | .bltzal .. => 0x04100000
  | .bgezal .. => 0x04110000
  | .j .. => 0x08000000
  | .jal .. => 0x0C000000
  | .jr .. => 0x00000008
  | .jalr .. => 0x00000009
  | .lw .. => 0x8C000000
  | .lh .. => 0x84000000
  | .lhu .. => 0x94000000
  | .lb .. => 0x80000000
  | .lbu .. => 0x90000000
  | .sw .. => 0xAC000000
  | .sh .. => 0xA4000000
  | .sb .. => 0xA0000000
  | .lwl .. => 0x88000000
  | .lwr .. => 0x98000000
  | .swl .. => 0xA8000000
  | .swr .. => 0xB8000000
  | .mult .. => 0x00000018
  | .multu .. => 0x00000019
  | .mul .. => 0x70000002
  | .div .. => 0x0000001A
  | .divu .. => 0x0000001B
  | .mfhi .. => 0x00000010
  | .mflo .. => 0x00000012
  | .mthi .. => 0x00000011
  | .mtlo .. => 0x00000013
  | .syscall => 0x0000000C
  | .brk => 0x0000000D
  | .teq .. => 0x00000034
  | .and .. => 0x00000024
  | .or .. => 0x00000025
  | .xor .. => 0x00000026
  | .nor .. => 0x00000027
  | .andi .. => 0x30000000
  | .ori .. => 0x34000000
  | .xori .. => 0x38000000
  | .lui .. => 0x3C000000
  | .sll .. => 0x00000000
  | .srl .. => 0x00000002
  | .sra .. => 0x00000003
  | .sllv .. => 0x00000004
  | .srlv .. => 0x00000006
  | .srav .. => 0x00000007
  | .slt .. => 0x0000002A
  | .sltu .. => 0x0000002B
  | .slti .. => 0x28000000
  | .sltiu .. => 0x2C000000

/-- Column `mask` of opcode_table.json. -/
def rowMask : Instr → Word
  | .add .. | .sub .. | .addu .. | .subu .. | .jr .. | .jalr .. | .mult .. | .multu .. | .mul ..
  | .div .. | .divu .. | .mfhi .. | .mflo .. | .mthi .. | .mtlo .. | .syscall | .brk | .teq ..
  | .and .. | .or .. | .xor .. | .nor .. | .sll .. | .srl .. | .sra .. | .sllv .. | .srlv ..
  | .srav .. | .slt .. | .sltu .. => 0xFC00003F
  | .addi .. | .addiu .. | .beq .. | .bne .. | .blez .. | .bgtz .. | .j .. | .jal .. | .lw ..
  | .lh .. | .lhu .. | .lb .. | .lbu .. | .sw .. | .sh .. | .sb .. | .lwl .. | .lwr ..
  | .swl .. | .swr .. | .andi .. | .ori .. | .xori .. | .lui .. | .slti .. | .sltiu .. => 0xFC000000
  | .bltz .. | .bgez .. | .bltzal .. | .bgezal .. => 0xFC1F0000

/-- The word of `i` carries the fixed bits of its row. -/
def Statement (i : Instr) : Prop := encode i &&& rowMask i = rowMatch i

theorem packR_row (op : BitVec 6) (rs rt rd : RegIdx) (sa : BitVec 5) (funct : BitVec 6) :
    packR op rs rt rd sa funct &&& 0xFC00003F#32 = packR op 0#5 0#5 0#5 0#5 funct := by
  rw [show 0xFC00003F#32 = packR 63#6 0#5 0#5 0#5 0#5 63#6 from rfl, packR_and]
  simp only [and_ones6, BitVec.and_zero]

theorem packI_row (op : BitVec 6) (rs rt : RegIdx) (imm : Imm16) :
    packI op rs rt imm &&& 0xFC000000#32 = packI op 0#5 0#5 0#16 := by
  rw [show 0xFC000000#32 = packI 63#6 0#5 0#5 0#16 from rfl, packI_and]
  simp only [and_ones6, BitVec.and_zero]

theorem packI_selector_row (op : BitVec 6) (rs rt : RegIdx) (imm : Imm16) :
    packI op rs rt imm &&& 0xFC1F0000#32 = packI op 0#5 rt 0#16 := by
  rw [show 0xFC1F0000#32 = packI 63#6 0#5 31#5 0#16 from rfl, packI_and]
  simp only [and_ones6, and_ones5, BitVec.and_zero]

theorem packJ_row (op : BitVec 6) (index : BitVec 26) :
    packJ op index &&& 0xFC000000#32 = packJ op 0#26 := by
  rw [show 0xFC000000#32 = packJ 63#6 0#26 from rfl, packJ_and]
  simp only [and_ones6, BitVec.and_zero]

theorem add (rd rs rt : RegIdx) : Statement (.add rd rs rt) := packR_row _ _ _ _ _ _
theorem addi (rt rs : RegIdx) (imm : Imm16) : Statement (.addi rt rs imm) := packI_row _ _ _ _
theorem sub (rd rs rt : RegIdx) : Statement (.sub rd rs rt) := packR_row _ _ _ _ _ _
theorem addu (rd rs rt : RegIdx) : Statement (.addu rd rs rt) := packR_row _ _ _ _ _ _
theorem addiu (rt rs : RegIdx) (imm : Imm16) : Statement (.addiu rt rs imm) := packI_row _ _ _ _
theorem subu (rd rs rt : RegIdx) : Statement (.subu rd rs rt) := packR_row _ _ _ _ _ _
theorem beq (rs rt : RegIdx) (imm : Imm16) : Statement (.beq rs rt imm) := packI_row _ _ _ _
theorem bne (rs rt : RegIdx) (imm : Imm16) : Statement (.bne rs rt imm) := packI_row _ _ _ _
theorem blez (rs : RegIdx) (imm : Imm16) : Statement (.blez rs imm) := packI_row _ _ _ _
theorem bgtz (rs : RegIdx) (imm : Imm16) : Statement (.bgtz rs imm) := packI_row _ _ _ _
theorem bltz (rs : RegIdx) (imm : Imm16) : Statement (.bltz rs imm) := packI_selector_row _ _ _ _
theorem bgez (rs : RegIdx) (imm : Imm16) : Statement (.bgez rs imm) := packI_selector_row _ _ _ _
theorem bltzal (rs : RegIdx) (imm : Imm16) : Statement (.bltzal rs imm) := packI_selector_row _ _ _ _
theorem bgezal (rs : RegIdx) (imm : Imm16) : Statement (.bgezal rs imm) := packI_selector_row _ _ _ _
theorem j (index : BitVec 26) : Statement (.j index) := packJ_row _ _
theorem jal (index : BitVec 26) : Statement (.jal index) := packJ_row _ _
theorem jr (rs : RegIdx) : Statement (.jr rs) := packR_row _ _ _ _ _ _
theorem jalr (rd rs : RegIdx) : Statement (.jalr rd rs) := packR_row _ _ _ _ _ _
theorem lw (rt rs : RegIdx) (imm : Imm16) : Statement (.lw rt rs imm) := packI_row _ _ _ _
theorem lh (rt rs : RegIdx) (imm : Imm16) : Statement (.lh rt rs imm) := packI_row _ _ _ _
theorem lhu (rt rs : RegIdx) (imm : Imm16) : Statement (.lhu rt rs imm) := packI_row _ _ _ _
theorem lb (rt rs : RegIdx) (imm : Imm16) : Statement (.lb rt rs imm) := packI_row _ _ _ _
theorem lbu (rt rs : RegIdx) (imm : Imm16) : Statement (.lbu rt rs imm) := packI_row _ _ _ _
theorem sw (rt rs : RegIdx) (imm : Imm16) : Statement (.sw rt rs imm) := packI_row _ _ _ _
theorem sh (rt rs : RegIdx) (imm : Imm16) : Statement (.sh rt rs imm) := packI_row _ _ _ _
theorem sb (rt rs : RegIdx) (imm : Imm16) : Statement (.sb rt rs imm) := packI_row _ _ _ _
theorem lwl (rt rs : RegIdx) (imm : Imm16) : Statement (.lwl rt rs imm) := packI_row _ _ _ _
theorem lwr (rt rs : RegIdx) (imm : Imm16) : Statement (.lwr rt rs imm) := packI_row _ _ _ _
theorem swl (rt rs : RegIdx) (imm : Imm16) : Statement (.swl rt rs imm) := packI_row _ _ _ _
theorem swr (rt rs : RegIdx) (imm : Imm16) : Statement (.swr rt rs imm) := packI_row _ _ _ _
theorem mult (rs rt : RegIdx) : Statement (.mult rs rt) := packR_row _ _ _ _ _ _
theorem multu (rs rt : RegIdx) : Statement (.multu rs rt) := packR_row _ _ _ _ _ _
theorem mul (rd rs rt : RegIdx) : Statement (.mul rd rs rt) := packR_row _ _ _ _ _ _
theorem div (rs rt : RegIdx) : Statement (.div rs rt) := packR_row _ _ _ _ _ _
theorem divu (rs rt : RegIdx) : Statement (.divu rs rt) := packR_row _ _ _ _ _ _
theorem mfhi (rd : RegIdx) : Statement (.mfhi rd) := packR_row _ _ _ _ _ _
theorem mflo (rd : RegIdx) : Statement (.mflo rd) := packR_row _ _ _ _ _ _
theorem mthi (rs : RegIdx) : Statement (.mthi rs) := packR_row _ _ _ _ _ _
theorem mtlo (rs : RegIdx) : Statement (.mtlo rs) := packR_row _ _ _ _ _ _
theorem syscall : Statement (.syscall) := packR_row _ _ _ _ _ _
theorem brk : Statement (.brk) := packR_row _ _ _ _ _ _
theorem teq (rs rt : RegIdx) : Statement (.teq rs rt) := packR_row _ _ _ _ _ _
theorem and (rd rs rt : RegIdx) : Statement (.and rd rs rt) := packR_row _ _ _ _ _ _
theorem or (rd rs rt : RegIdx) : Statement (.or rd rs rt) := packR_row _ _ _ _ _ _
theorem xor (rd rs rt : RegIdx) : Statement (.xor rd rs rt) := packR_row _ _ _ _ _ _
theorem nor (rd rs rt : RegIdx) : Statement (.nor rd rs rt) := packR_row _ _ _ _ _ _
theorem andi (rt rs : RegIdx) (imm : Imm16) : Statement (.andi rt rs imm) := packI_row _ _ _ _
theorem ori (rt rs : RegIdx) (imm : Imm16) : Statement (.ori rt rs imm) := packI_row _ _ _ _
theorem xori (rt rs : RegIdx) (imm : Imm16) : Statement (.xori rt rs imm) := packI_row _ _ _ _
theorem lui (rt : RegIdx) (imm : Imm16) : Statement (.lui rt imm) := packI_row _ _ _ _
theorem sll (rd rt : RegIdx) (sa : BitVec 5) : Statement (.sll rd rt sa) := packR_row _ _ _ _ _ _
theorem srl (rd rt : RegIdx) (sa : BitVec 5) : Statement (.srl rd rt sa) := packR_row _ _ _ _ _ _
theorem sra (rd rt : RegIdx) (sa : BitVec 5) : Statement (.sra rd rt sa) := packR_row _ _ _ _ _ _
theorem sllv (rd rt rs : RegIdx) : Statement (.sllv rd rt rs) := packR_row _ _ _ _ _ _
theorem srlv (rd rt rs : RegIdx) : Statement (.srlv rd rt rs) := packR_row _ _ _ _ _ _
theorem srav (rd rt rs : RegIdx) : Statement (.srav rd rt rs) := packR_row _ _ _ _ _ _
theorem slt (rd rs rt : RegIdx) : Statement (.slt rd rs rt) := packR_row _ _ _ _ _ _
theorem sltu (rd rs rt : RegIdx) : Statement (.sltu rd rs rt) := packR_row _ _ _ _ _ _
theorem slti (rt rs : RegIdx) (imm : Imm16) : Statement (.slti rt rs imm) := packI_row _ _ _ _
theorem sltiu (rt rs : RegIdx) (imm : Imm16) : Statement (.sltiu rt rs imm) := packI_row _ _ _ _

end Sys2Proof.Laws.RowBits
end

