-- ==== Sys2Proof/Laws/Unaligned.lean ====
section
/-! SUPPORT. The merge formulas of 44_unaligned.md R157 to R160 are the rows of its table R156. -/

namespace Sys2Proof.Machine

theorem getElem_byteOfWord (w : Word) (n i : Nat) (hi : i < 8) : (byteOfWord w n)[i] = w.getLsbD (8 * n + i) := by
  simp [byteOfWord, BitVec.getElem_extractLsb']

theorem mergeLwl_eq_row {k : Nat} (hk : k < 4) (t : Word) (M : Nat → Byte) :
    mergeLwl k t (wordOfBytes (M 0) (M 1) (M 2) (M 3)) = lwlRow k (byteOfWord t) M := by
  interval_cases k <;> ext i hi <;> interval_cases i <;>
    simp [mergeLwl, lwlRow, getElem_wordOfBytes, getElem_byteOfWord]

theorem mergeLwr_eq_row {k : Nat} (hk : k < 4) (t : Word) (M : Nat → Byte) :
    mergeLwr k t (wordOfBytes (M 0) (M 1) (M 2) (M 3)) = lwrRow k (byteOfWord t) M := by
  interval_cases k <;> ext i hi <;> interval_cases i <;>
    simp [mergeLwr, lwrRow, getElem_wordOfBytes, getElem_byteOfWord]

theorem mergeSwl_eq_row {k : Nat} (hk : k < 4) (t : Word) (M : Nat → Byte) :
    [byteOfWord (mergeSwl k t (wordOfBytes (M 0) (M 1) (M 2) (M 3))) 0,
     byteOfWord (mergeSwl k t (wordOfBytes (M 0) (M 1) (M 2) (M 3))) 1,
     byteOfWord (mergeSwl k t (wordOfBytes (M 0) (M 1) (M 2) (M 3))) 2,
     byteOfWord (mergeSwl k t (wordOfBytes (M 0) (M 1) (M 2) (M 3))) 3] = swlRow k (byteOfWord t) M := by
  have h : ∀ n < 4, byteOfWord (mergeSwl k t (wordOfBytes (M 0) (M 1) (M 2) (M 3))) n =
      ((swlRow k (byteOfWord t) M)[n]?).getD 0 := by
    interval_cases k <;> intro n hn <;> interval_cases n <;> ext i hi <;> interval_cases i <;>
      simp [mergeSwl, swlRow, getElem_wordOfBytes, getElem_byteOfWord]
  rw [h 0 (by omega), h 1 (by omega), h 2 (by omega), h 3 (by omega)]
  interval_cases k <;> rfl

theorem mergeSwr_eq_row {k : Nat} (hk : k < 4) (t : Word) (M : Nat → Byte) :
    [byteOfWord (mergeSwr k t (wordOfBytes (M 0) (M 1) (M 2) (M 3))) 0,
     byteOfWord (mergeSwr k t (wordOfBytes (M 0) (M 1) (M 2) (M 3))) 1,
     byteOfWord (mergeSwr k t (wordOfBytes (M 0) (M 1) (M 2) (M 3))) 2,
     byteOfWord (mergeSwr k t (wordOfBytes (M 0) (M 1) (M 2) (M 3))) 3] = swrRow k (byteOfWord t) M := by
  have h : ∀ n < 4, byteOfWord (mergeSwr k t (wordOfBytes (M 0) (M 1) (M 2) (M 3))) n =
      ((swrRow k (byteOfWord t) M)[n]?).getD 0 := by
    interval_cases k <;> intro n hn <;> interval_cases n <;> ext i hi <;> interval_cases i <;>
      simp [mergeSwr, swrRow, getElem_wordOfBytes, getElem_byteOfWord]
  rw [h 0 (by omega), h 1 (by omega), h 2 (by omega), h 3 (by omega)]
  interval_cases k <;> rfl

end Sys2Proof.Machine
end

