-- ==== Sys2Proof/Tests/Slice0.lean ====
section
/-! SUPPORT. Tests of the model against words and results the spec writes out (95_test_vectors.md, and the examples
in its rules), and a witness for the hypotheses of every statement that has some. -/

namespace Sys2Proof.Tests

open Sys2Proof Sys2Proof.Machine

/-! ## Helpers -/

/-- The start state of the vectors (95_test_vectors.md, conventions): `pc = 00400100`, all else 0. -/
def base : State := { State.reset with pc := 0x00400100#32, npc := 0x00400104#32, runState := .running }

/-- The parameters of the spec, less the six unnamed instructions. -/
def namedOnly : Config := { Config.hardware with includeUnnamedOps := false }

/-- The parameters of the spec with the strict decoder. -/
def strict : Config := { Config.hardware with decodeStrictZeroFields := true }

/-- `base` with other parameters. -/
def withPolicy (d : DivCornerPolicy) (p : JrMisalignedPolicy) : State :=
  { base with config := { Config.hardware with divCorner := d, jrMisaligned := p } }

/-- `base` with registers set. -/
def regs (l : List (RegIdx × Word)) : State := l.foldl (fun s c => s.writeReg c.1 c.2) base

/-- A state with one more word in memory. -/
def word (s : State) (a v : Word) : State := s.setMem (s.mem.setWord a v)

/-- One step of the machine on the word `w`, placed at `pc`. -/
def after (w : Nat) (s : State) : Option State :=
  match step (s.withFetchWord 32 w) with
  | .next t => some t
  | .fault _ | .refused _ => none

/-- A register after the step. -/
def reg (w : Nat) (s : State) (r : RegIdx) : Option Word := (after w s).map (·.readReg r)

/-- `hi` and `lo` after the step. -/
def hilo (w : Nat) (s : State) : Option (Word × Word) := (after w s).map fun t => (t.hi, t.lo)

/-- `pc` and `npc` after the step. -/
def pcs (w : Nat) (s : State) : Option (Word × Word) := (after w s).map fun t => (t.pc, t.npc)

/-- The word at an address after the step. -/
def memWord (w : Nat) (s : State) (a : Word) : Option Word := (after w s).map (·.mem.getWord a)

/-- The reports and `pc` after the step. -/
def traps (w : Nat) (s : State) : Option (List Report × Word) := (after w s).map fun t => (t.reports, t.pc)

/-- One report, of the instruction at `00400100`, and the run goes on. -/
def trapped (c : TrapCause) : Option (List Report × Word) := some ([⟨0x00400100#32, c⟩], 0x00400104#32)

/-- The run state and `pc` after the step. -/
def ends (w : Nat) (s : State) : Option (RunState × Word) := (after w s).map fun t => (t.runState, t.pc)

/-! ## WellFormed: the six unnamed instructions are refused when the machine has only the named ones -/

theorem test_wellFormed_refuses_sb : Instr.WellFormed namedOnly (.sb 8#5 16#5 13#16) = false := by decide

theorem test_wellFormed_refuses_lui : Instr.WellFormed namedOnly (.lui 16#5 0x1001#16) = false := by decide

theorem test_wellFormed_refuses_mfhi : Instr.WellFormed namedOnly (.mfhi 9#5) = false := by decide

theorem test_wellFormed_refuses_mflo : Instr.WellFormed namedOnly (.mflo 8#5) = false := by decide

theorem test_wellFormed_refuses_mthi : Instr.WellFormed namedOnly (.mthi 8#5) = false := by decide

theorem test_wellFormed_refuses_mtlo : Instr.WellFormed namedOnly (.mtlo 8#5) = false := by decide

theorem test_wellFormed_accepts_add : Instr.WellFormed namedOnly (.add 10#5 8#5 9#5) = true := by decide

/-! ## Decoding: a word written out by the spec for every constructor (95_test_vectors.md 2.0 to 2.10, part 3) -/

theorem test_decode_arith :
    decodeTableWord 32 0x01095020 = some (.add 10#5 8#5 9#5) ∧
    decodeTableWord 32 0x21090001 = some (.addi 9#5 8#5 0x1#16) ∧
    decodeTableWord 32 0x01095022 = some (.sub 10#5 8#5 9#5) ∧
    decodeTableWord 32 0x01095021 = some (.addu 10#5 8#5 9#5) ∧
    decodeTableWord 32 0x2508FFFF = some (.addiu 8#5 8#5 0xFFFF#16) ∧
    decodeTableWord 32 0x01302023 = some (.subu 4#5 9#5 16#5) := by decide

theorem test_decode_branch :
    decodeTableWord 32 0x10210002 = some (.beq 1#5 1#5 0x2#16) ∧
    decodeTableWord 32 0x1500FFFD = some (.bne 8#5 0#5 0xFFFD#16) ∧
    decodeTableWord 32 0x19000004 = some (.blez 8#5 0x4#16) ∧
    decodeTableWord 32 0x1D000004 = some (.bgtz 8#5 0x4#16) ∧
    decodeTableWord 32 0x05000002 = some (.bltz 8#5 0x2#16) ∧
    decodeTableWord 32 0x05010002 = some (.bgez 8#5 0x2#16) ∧
    decodeTableWord 32 0x05700002 = some (.bltzal 11#5 0x2#16) ∧
    decodeTableWord 32 0x07F10002 = some (.bgezal 31#5 0x2#16) ∧
    decodeTableWord 32 0x08ABCDEF = some (.j 0x0ABCDEF#26) ∧
    decodeTableWord 32 0x0C100008 = some (.jal 0x0100008#26) ∧
    decodeTableWord 32 0x03E00008 = some (.jr 31#5) ∧
    decodeTableWord 32 0x01004009 = some (.jalr 8#5 8#5) := by decide

theorem test_decode_loads_stores :
    decodeTableWord 32 0x8E09FFFC = some (.lw 9#5 16#5 0xFFFC#16) ∧
    decodeTableWord 32 0x86090006 = some (.lh 9#5 16#5 0x6#16) ∧
    decodeTableWord 32 0x96090003 = some (.lhu 9#5 16#5 0x3#16) ∧
    decodeTableWord 32 0x82090007 = some (.lb 9#5 16#5 0x7#16) ∧
    decodeTableWord 32 0x92090005 = some (.lbu 9#5 16#5 0x5#16) ∧
    decodeTableWord 32 0xAE080010 = some (.sw 8#5 16#5 0x10#16) ∧
    decodeTableWord 32 0xA608000A = some (.sh 8#5 16#5 0xA#16) ∧
    decodeTableWord 32 0xA208000D = some (.sb 8#5 16#5 0xD#16) := by decide

theorem test_decode_unaligned :
    decodeTableWord 32 0x8A2A0003 = some (.lwl 10#5 17#5 0x3#16) ∧
    decodeTableWord 32 0x9A2A0000 = some (.lwr 10#5 17#5 0x0#16) ∧
    decodeTableWord 32 0xAA080008 = some (.swl 8#5 16#5 0x8#16) ∧
    decodeTableWord 32 0xBA080005 = some (.swr 8#5 16#5 0x5#16) := by decide

theorem test_decode_muldiv :
    decodeTableWord 32 0x00850018 = some (.mult 4#5 5#5) ∧
    decodeTableWord 32 0x00850019 = some (.multu 4#5 5#5) ∧
    decodeTableWord 32 0x714B6002 = some (.mul 12#5 10#5 11#5) ∧
    decodeTableWord 32 0x0085001A = some (.div 4#5 5#5) ∧
    decodeTableWord 32 0x0085001B = some (.divu 4#5 5#5) ∧
    decodeTableWord 32 0x00005810 = some (.mfhi 11#5) ∧
    decodeTableWord 32 0x00005012 = some (.mflo 10#5) ∧
    decodeTableWord 32 0x01000011 = some (.mthi 8#5) ∧
    decodeTableWord 32 0x01000013 = some (.mtlo 8#5) := by decide

theorem test_decode_system :
    decodeTableWord 32 0x03FFFFCC = some .syscall ∧
    decodeTableWord 32 0x0000000D = some .brk ∧
    decodeTableWord 32 0x01090034 = some (.teq 8#5 9#5) := by decide

theorem test_decode_logic :
    decodeTableWord 32 0x01095024 = some (.and 10#5 8#5 9#5) ∧
    decodeTableWord 32 0x01005025 = some (.or 10#5 8#5 0#5) ∧
    decodeTableWord 32 0x01095026 = some (.xor 10#5 8#5 9#5) ∧
    decodeTableWord 32 0x00005027 = some (.nor 10#5 0#5 0#5) ∧
    decodeTableWord 32 0x310AFF00 = some (.andi 10#5 8#5 0xFF00#16) ∧
    decodeTableWord 32 0x3508AABB = some (.ori 8#5 8#5 0xAABB#16) ∧
    decodeTableWord 32 0x390AFFFF = some (.xori 10#5 8#5 0xFFFF#16) ∧
    decodeTableWord 32 0x3C101001 = some (.lui 16#5 0x1001#16) := by decide

theorem test_decode_shift_compare :
    decodeTableWord 32 0x00085100 = some (.sll 10#5 8#5 4#5) ∧
    decodeTableWord 32 0x00085102 = some (.srl 10#5 8#5 4#5) ∧
    decodeTableWord 32 0x000857C3 = some (.sra 10#5 8#5 31#5) ∧
    decodeTableWord 32 0x01285004 = some (.sllv 10#5 8#5 9#5) ∧
    decodeTableWord 32 0x01285006 = some (.srlv 10#5 8#5 9#5) ∧
    decodeTableWord 32 0x01285007 = some (.srav 10#5 8#5 9#5) ∧
    decodeTableWord 32 0x0160602A = some (.slt 12#5 11#5 0#5) ∧
    decodeTableWord 32 0x0160702B = some (.sltu 14#5 11#5 0#5) ∧
    decodeTableWord 32 0x290AFFFF = some (.slti 10#5 8#5 0xFFFF#16) ∧
    decodeTableWord 32 0x2D0AFFFF = some (.sltiu 10#5 8#5 0xFFFF#16) := by decide

/-- Unused fields are ignored (30_encoding.md R89, R97): ADDU with a nonzero `sa`, LUI with `rs` 31, a shift of 0. -/
theorem test_decode_ignores_unused_fields :
    decodeTableWord 32 0x010957E1 = some (.addu 10#5 8#5 9#5) ∧ decodeTableWord 32 0x3FE80000 = some (.lui 8#5 0#16) ∧
    decodeTableWord 32 0x00000040 = some (.sll 0#5 0#5 1#5) := by decide

/-- The strict decoder refuses them, but not the code bits of SYSCALL (R89). -/
theorem test_decode_strict :
    decode strict 0x010957E1#32 = .unknown 0x010957E1#32 ∧ decode strict 0x03FFFFCC#32 = .instr .syscall := by decide

/-- The `Unknown` words of 95_test_vectors.md 2.0. -/
theorem test_decode_unknown :
    [0xFFFFFFFF, 0x0000000F, 0x00000001, 0x70000000, 0x04020000, 0x41000000, 0xC0000000, 0xBC000000, 0x50000000].all
      (fun w => decodeTableWord 32 w == none) = true := by decide

/-! ## Single steps (95_test_vectors.md 2.1 to 2.11) -/

/-- The start state of 95_test_vectors.md 2.4, loads. -/
def loads : State :=
  (word (word (regs [(16#5, 0x10010000#32), (9#5, 0x55555555#32)]) 0x10010000#32 0x8899AABB#32) 0x10010004#32 0x7F80FF01#32)

/-- The start state of 2.4, stores. -/
def stores : State :=
  (word (regs [(8#5, 0x11223344#32), (16#5, 0x10010000#32)]) 0x10010008#32 0xAABBCCDD#32)

/-- The start state of 2.5. -/
def partials : State :=
  (word (regs [(9#5, 0x11223344#32), (16#5, 0x10010000#32)]) 0x10010000#32 0xAABBCCDD#32)

/-- The start state of 2.6, moves. -/
def hiLo : State :=
  { (regs [(8#5, 0x12345678#32)]) with hi := 0x55#32, lo := 0x66#32 }

theorem test_add_wraps_to_zero :
    reg 0x01095020 (regs [(8#5, 0xFFFFFFFF#32), (9#5, 0x1#32)]) 10#5 = some 0x0#32 := by decide

theorem test_add_traps :
    traps 0x01095020 (regs [(8#5, 0x7FFFFFFF#32), (9#5, 0x1#32)]) = trapped .overflowADD := by decide

theorem test_addi_sign_extends : reg 0x21098000 (regs []) 9#5 = some 0xFFFF8000#32 := by decide

theorem test_addi_traps :
    traps 0x2109FFFF (regs [(8#5, 0x80000000#32)]) = trapped .overflowADDI := by decide

theorem test_sub_below_zero :
    reg 0x01095022 (regs [(9#5, 0x1#32)]) 10#5 = some 0xFFFFFFFF#32 := by decide

theorem test_sub_traps :
    traps 0x01095022 (regs [(9#5, 0x80000000#32)]) = trapped .overflowSUB := by decide

theorem test_sub_trap_writes_nothing :
    reg 0x01095022 (regs [(8#5, 0x80000000#32), (9#5, 0x1#32), (10#5, 0xDEADBEEF#32)]) 10#5 = some 0xDEADBEEF#32 := by decide

theorem test_addu_wraps :
    reg 0x01095021 (regs [(8#5, 0x7FFFFFFF#32), (9#5, 0x1#32)]) 10#5 = some 0x80000000#32 := by decide

theorem test_addiu_sign_extends : reg 0x25098000 (regs []) 9#5 = some 0xFFFF8000#32 := by decide

theorem test_subu_no_trap :
    reg 0x01095023 (regs [(8#5, 0x80000000#32), (9#5, 0x1#32)]) 10#5 = some 0x7FFFFFFF#32 := by decide

theorem test_register_zero_is_not_written : reg 0x24000005 (regs []) 0#5 = some 0x0#32 := by decide

theorem test_beq_taken :
    pcs 0x11090005 (regs [(8#5, 0x7#32), (9#5, 0x7#32)]) = some (0x00400104#32, 0x00400118#32) := by decide

theorem test_beq_backwards : pcs 0x10008000 (regs []) = some (0x00400104#32, 0x003E0104#32) := by decide

theorem test_bne_taken :
    pcs 0x15090005 (regs [(8#5, 0x7#32), (9#5, 0x8#32)]) = some (0x00400104#32, 0x00400118#32) := by decide

theorem test_bne_not_taken : pcs 0x15080005 (regs []) = some (0x00400104#32, 0x00400108#32) := by decide

theorem test_blez_zero : pcs 0x19000004 (regs []) = some (0x00400104#32, 0x00400114#32) := by decide

theorem test_blez_one :
    pcs 0x19000004 (regs [(8#5, 0x1#32)]) = some (0x00400104#32, 0x00400108#32) := by decide

theorem test_bgtz_zero : pcs 0x1D000004 (regs []) = some (0x00400104#32, 0x00400108#32) := by decide

theorem test_bgtz_positive :
    pcs 0x1D000004 (regs [(8#5, 0x7FFFFFFF#32)]) = some (0x00400104#32, 0x00400114#32) := by decide

theorem test_bltz_negative :
    pcs 0x05000002 (regs [(8#5, 0xFFFFFFFF#32)]) = some (0x00400104#32, 0x0040010C#32) := by decide

theorem test_bltz_zero : pcs 0x05000002 (regs []) = some (0x00400104#32, 0x00400108#32) := by decide

theorem test_bgez_zero : pcs 0x05010002 (regs []) = some (0x00400104#32, 0x0040010C#32) := by decide

theorem test_bgez_negative :
    pcs 0x05010002 (regs [(8#5, 0x80000000#32)]) = some (0x00400104#32, 0x00400108#32) := by decide

theorem test_bltzal_tests_the_new_link :
    pcs 0x07F00002 (regs [(31#5, 0xFFFFFFFF#32)]) = some (0x00400104#32, 0x00400108#32) := by decide

theorem test_bltzal_links_not_taken :
    reg 0x05100002 (regs [(8#5, 0x1#32)]) 31#5 = some 0x00400108#32 := by decide

theorem test_bgezal_tests_the_new_link :
    pcs 0x07F10002 (regs [(31#5, 0xFFFFFFFF#32)]) = some (0x00400104#32, 0x0040010C#32) := by decide

theorem test_bgezal_links_not_taken :
    reg 0x05110002 (regs [(8#5, 0xFFFFFFFF#32)]) 31#5 = some 0x00400108#32 := by decide

theorem test_j_target : pcs 0x08ABCDEF (regs []) = some (0x00400104#32, 0x02AF37BC#32) := by decide

theorem test_j_region_from_npc : pcs 0x08000000 { base with pc := 0x0FFFFFFC#32, npc := 0x10000000#32 } =
      some (0x10000000#32, 0x10000000#32) := by decide

theorem test_jal_in_a_slot : (after 0x0C000040 { base with npc := 0x00500000#32 }).map (fun t => (t.pc, t.npc, t.readReg 31#5)) =
      some (0x00500000#32, 0x00000100#32, 0x00400108#32) := by decide

theorem test_jr_target :
    pcs 0x01000008 (regs [(8#5, 0x00400200#32)]) = some (0x00400104#32, 0x00400200#32) := by decide

theorem test_jr_misaligned : ends 0x01000008 (regs [(8#5, 0x00400202#32)]) =
      some (.failed (.misalignedJumpTarget 0x00400202#32), 0x00400100#32) := by decide

theorem test_jalr_reads_before_it_links :
    reg 0x01004009 (regs [(8#5, 0x00400200#32)]) 8#5 = some 0x00400108#32 := by decide

theorem test_jalr_misaligned_writes_no_link :
    reg 0x0100F809 (regs [(8#5, 0x00400201#32), (31#5, 0x5#32)]) 31#5 = some 0x5#32 := by decide

theorem test_lw : reg 0x8E090004 loads 9#5 = some 0x7F80FF01#32 := by decide

theorem test_lw_misaligned : traps 0x8E090002 loads = trapped .unalignedWord := by decide

theorem test_lw_base_is_destination : reg 0x8E100000 loads 16#5 = some 0x8899AABB#32 := by decide

theorem test_lh : reg 0x86090002 loads 9#5 = some 0xFFFF8899#32 := by decide

theorem test_lh_misaligned : traps 0x86090001 loads = trapped .unalignedHalf := by decide

theorem test_lhu : reg 0x96090002 loads 9#5 = some 0x00008899#32 := by decide

theorem test_lhu_misaligned : traps 0x96090003 loads = trapped .unalignedHalf := by decide

theorem test_lb : reg 0x82090006 loads 9#5 = some 0xFFFFFF80#32 := by decide

theorem test_lbu : reg 0x92090006 loads 9#5 = some 0x00000080#32 := by decide

theorem test_lb_at_the_top :
    reg 0x8009FFFF (word base 0xFFFFFFFC#32 0xCAFEF00D#32) 9#5 = some 0xFFFFFFCA#32 := by decide

theorem test_sw : memWord 0xAE080008 stores 0x10010008#32 = some 0x11223344#32 := by decide

theorem test_sw_misaligned : traps 0xAE080009 stores = trapped .unalignedWord := by decide

theorem test_sh : memWord 0xA608000A stores 0x10010008#32 = some 0x3344CCDD#32 := by decide

theorem test_sh_misaligned_stores_nothing :
    memWord 0xA6080009 stores 0x10010008#32 = some 0xAABBCCDD#32 := by decide

theorem test_sb : memWord 0xA208000B stores 0x10010008#32 = some 0x44BBCCDD#32 := by decide

theorem test_lwl_k1 : reg 0x8A090001 partials 9#5 = some 0xCCDD3344#32 := by decide

theorem test_lwl_k2 : reg 0x8A090002 partials 9#5 = some 0xBBCCDD44#32 := by decide

theorem test_lwr_k1 : reg 0x9A090001 partials 9#5 = some 0x11AABBCC#32 := by decide

theorem test_lwr_k2 : reg 0x9A090002 partials 9#5 = some 0x1122AABB#32 := by decide

theorem test_swl_k1 : memWord 0xAA090001 partials 0x10010000#32 = some 0xAABB1122#32 := by decide

theorem test_swl_k2 : memWord 0xAA090002 partials 0x10010000#32 = some 0xAA112233#32 := by decide

theorem test_swr_k1 : memWord 0xBA090001 partials 0x10010000#32 = some 0x223344DD#32 := by decide

theorem test_swr_k2 : memWord 0xBA090002 partials 0x10010000#32 = some 0x3344CCDD#32 := by decide

theorem test_mult :
    hilo 0x00850018 (regs [(4#5, 0x80000000#32), (5#5, 0xFFFFFFFF#32)]) = some (0x00000000#32, 0x80000000#32) := by decide

theorem test_multu :
    hilo 0x00850019 (regs [(4#5, 0x80000000#32), (5#5, 0xFFFFFFFF#32)]) = some (0x7FFFFFFF#32, 0x80000000#32) := by decide

theorem test_mul :
    reg 0x714B6002 (regs [(10#5, 0xFFFFFFFE#32), (11#5, 0xFFFFFFFF#32)]) 12#5 = some 0x2#32 := by decide

theorem test_mul_writes_hi_lo :
    hilo 0x714B6002 (regs [(10#5, 0x80000000#32), (11#5, 0x2#32)]) = some (0xFFFFFFFF#32, 0x0#32) := by decide

theorem test_div_negative :
    hilo 0x0085001A (regs [(4#5, 0xFFFFFFF9#32), (5#5, 0x3#32)]) = some (0xFFFFFFFF#32, 0xFFFFFFFE#32) := by decide

theorem test_div_negative_divisor :
    hilo 0x0085001A (regs [(4#5, 0x7#32), (5#5, 0xFFFFFFFD#32)]) = some (0x1#32, 0xFFFFFFFE#32) := by decide

theorem test_div_overflow : ends 0x0085001A (regs [(4#5, 0x80000000#32), (5#5, 0xFFFFFFFF#32)]) =
      some (.failed .divideOverflow, 0x00400100#32) := by decide

theorem test_divu :
    hilo 0x0085001B (regs [(4#5, 0xFFFFFFF9#32), (5#5, 0x3#32)]) = some (0x0#32, 0x55555553#32) := by decide

theorem test_divu_by_zero :
    ends 0x0085001B (regs [(4#5, 0x5#32)]) = some (.failed .divideByZero, 0x00400100#32) := by decide

theorem test_mfhi : reg 0x00004810 hiLo 9#5 = some 0x55#32 := by decide

theorem test_mflo : reg 0x00004012 hiLo 8#5 = some 0x66#32 := by decide

theorem test_mthi : hilo 0x01000011 hiLo = some (0x12345678#32, 0x66#32) := by decide

theorem test_mtlo : hilo 0x01000013 hiLo = some (0x55#32, 0x12345678#32) := by decide

theorem test_syscall_exit :
    ends 0x03FFFFCC (regs [(2#5, 0xA#32)]) = some (.halted, 0x00400100#32) := by decide

theorem test_syscall_print_int : (after 0x0000000C (regs [(2#5, 0x1#32), (4#5, 0xFFFFFFED#32)])).map (fun t => (t.outputs, t.pc)) =
      some ([.printInt (-19)], 0x00400104#32) := by decide

theorem test_syscall_print_string : (after 0x0000000C (word (regs [(2#5, 0x4#32), (4#5, 0x10010000#32)]) 0x10010000#32 0x00006948#32)).map (·.outputs) =
      some [.printString [0x48#8, 0x69#8]] := by decide

theorem test_syscall_read_int : reg 0x0000000C { (regs [(2#5, 0x5#32)]) with intInputs := [some 0xFFFFFFF9#32] } 2#5 =
      some 0xFFFFFFF9#32 := by decide

theorem test_syscall_read_string : memWord 0x0000000C { (regs [(2#5, 0x8#32), (4#5, 0x10010020#32), (5#5, 0x4#32)]) with
      lineInputs := [[0x68#8, 0x65#8, 0x6C#8, 0x6C#8, 0x6F#8]] } 0x10010020#32 = some 0x006C6568#32 := by decide

theorem test_syscall_unknown : ends 0x0000000C (regs [(2#5, 0x8000000A#32)]) =
      some (.failed (.unknownSyscall 0x8000000A#32), 0x00400100#32) := by decide

theorem test_break : (after 0x0000000D base).map (fun t => (t.lastStop, t.runState, t.pc, t.npc)) =
      some (some (.breakpoint 0x00400100#32), .paused, 0x00400104#32, 0x00400108#32) := by decide

theorem test_teq_equal :
    traps 0x01090034 (regs [(8#5, 0x5#32), (9#5, 0x5#32)]) = trapped .trapOnEqual := by decide

theorem test_teq_different :
    traps 0x01090034 (regs [(8#5, 0x5#32), (9#5, 0x6#32)]) = some ([], 0x00400104#32) := by decide

theorem test_and :
    reg 0x01095024 (regs [(8#5, 0xF0F0A5A5#32), (9#5, 0x0FF0FF00#32)]) 10#5 = some 0x00F0A500#32 := by decide

theorem test_or :
    reg 0x01095025 (regs [(8#5, 0xF0F0A5A5#32), (9#5, 0x0FF0FF00#32)]) 10#5 = some 0xFFF0FFA5#32 := by decide

theorem test_xor :
    reg 0x01095026 (regs [(8#5, 0xF0F0A5A5#32), (9#5, 0x0FF0FF00#32)]) 10#5 = some 0xFF005AA5#32 := by decide

theorem test_nor :
    reg 0x01095027 (regs [(8#5, 0xF0F0A5A5#32), (9#5, 0x0FF0FF00#32)]) 10#5 = some 0x000F005A#32 := by decide

theorem test_andi :
    reg 0x310AFF00 (regs [(8#5, 0xF0F0A5A5#32), (9#5, 0x0FF0FF00#32)]) 10#5 = some 0x0000A500#32 := by decide

theorem test_ori : reg 0x350A8000 (regs [(8#5, 0x12340000#32)]) 10#5 = some 0x12348000#32 := by decide

theorem test_xori :
    reg 0x390AFFFF (regs [(8#5, 0xF0F0A5A5#32), (9#5, 0x0FF0FF00#32)]) 10#5 = some 0xF0F05A5A#32 := by decide

theorem test_lui : reg 0x3C088899 (regs []) 8#5 = some 0x88990000#32 := by decide

theorem test_sll : reg 0x00085040 (regs [(8#5, 0x80000010#32)]) 10#5 = some 0x20#32 := by decide

theorem test_srl : reg 0x00085042 (regs [(8#5, 0x80000010#32)]) 10#5 = some 0x40000008#32 := by decide

theorem test_sra : reg 0x00085103 (regs [(8#5, 0x80000010#32)]) 10#5 = some 0xF8000001#32 := by decide

theorem test_sra_31 :
    reg 0x000857C3 (regs [(8#5, 0x80000010#32)]) 10#5 = some 0xFFFFFFFF#32 := by decide

theorem test_sllv :
    reg 0x01285004 (regs [(8#5, 0x80000010#32), (9#5, 0x24#32)]) 10#5 = some 0x100#32 := by decide

theorem test_srlv :
    reg 0x01285006 (regs [(8#5, 0x80000010#32), (9#5, 0x21#32)]) 10#5 = some 0x40000008#32 := by decide

theorem test_srav :
    reg 0x01285007 (regs [(8#5, 0x80000010#32), (9#5, 0x24#32)]) 10#5 = some 0xF8000001#32 := by decide

theorem test_slt : reg 0x0109502A (regs [(8#5, 0x80000000#32)]) 10#5 = some 0x1#32 := by decide

theorem test_sltu : reg 0x0109502B (regs [(8#5, 0x80000000#32)]) 10#5 = some 0x0#32 := by decide

theorem test_slti : reg 0x290A8000 (regs [(8#5, 0xFFFF7FFF#32)]) 10#5 = some 0x1#32 := by decide

theorem test_sltiu : reg 0x2D0A8000 (regs [(8#5, 0x7FFFFFFF#32)]) 10#5 = some 0x1#32 := by decide

theorem test_sltiu_equal : reg 0x2D0AFFFF (regs [(8#5, 0xFFFFFFFF#32)]) 10#5 = some 0x0#32 := by decide

theorem test_unknown_word_stops : ends 0xFFFFFFFF base =
      some (.failed (.unknownInstruction 0xFFFFFFFF#32), 0x00400100#32) := by decide

theorem test_npc_wraps : pcs 0x24090001 { base with pc := 0xFFFFFFF8#32, npc := 0xFFFFFFFC#32 } =
      some (0xFFFFFFFC#32, 0x00000000#32) := by decide

/-- 95_test_vectors.md 2.11, first row: the breakpoint stop, and the set and the slot it leaves. -/
theorem test_breakpoint_stop :
    (match run true 1 { base with breakpoints := [0x00400100#32] } with
      | .returned r t => some (r, t.breakpoints, t.pendingRearm, t.runState, t.pc)
      | .stillRunning _ | .stuck _ | .refused _ => none) =
    some (.breakpoint 0x00400100#32, [], some 0x00400100#32, .paused, 0x00400100#32) := by decide

/-- 50_step_cycle.md R242: after a restore the block is in the clone's state, the two hidden items included; the
record of outputs is the current one (log 18). -/
theorem test_clone_restore :
    let clone := { base with pendingRearm := some 8#32 }
    let current := { base with hi := 5#32, runState := .halted, outputs := [.printInt 7] }
    (restoreClone (cloneState clone) current).pendingRearm = some 8#32 ∧
    (restoreClone (cloneState clone) current).runState = base.runState ∧
    (restoreClone (cloneState clone) current).hi = 0#32 ∧
    (restoreClone (cloneState clone) current).outputs = [.printInt 7] := by decide

/-- 95_test_vectors.md S9: a file that is not executable, one that is not MIPS, a segment past the top. -/
theorem test_reset_rejects :
    resetPort ⟨1, 8, 0, []⟩ base = .error .notExecutable ∧ resetPort ⟨2, 9, 0, []⟩ base = .error .notMips ∧
    resetPort ⟨2, 8, 0, [⟨1, 0xFFFFFFF0#32, List.replicate 0x20 0#8⟩]⟩ base = .error .segmentOverflow := by
  refine ⟨rfl, rfl, rfl⟩

/-! ## Witnesses: states and operands that meet the hypotheses of the statements, at boundary values -/

/-- A state with `x[8] = a` and `x[9] = b`. -/
def pair (a b : Word) : State := regs [(8#5, a), (9#5, b)]

theorem notFailed {t : State} (h : t.runState = .running) : ¬ t.HasFailed := fun hf => by
  obtain ⟨k, hk⟩ := hf
  rw [h] at hk
  cases hk

theorem witness_DecodeEncodeRoundTrip :
    Instr.WellFormed Config.hardware (.sb 31#5 0#5 0xFFFF#16) = true ∧
    Instr.WellFormed namedOnly (.add 0#5 31#5 31#5) = true := by decide

theorem witness_DecodedWordIsItsEncoding :
    decode Config.hardware 0x010957E1#32 = .instr (.addu 10#5 8#5 9#5) ∧
    decode strict 0x01095021#32 = .instr (.addu 10#5 8#5 9#5) ∧ strict.decodeStrictZeroFields = true := by decide

theorem witness_UnknownWordsAreExactlyThese :
    Config.hardware.includeUnnamedOps = true ∧ Config.hardware.decodeStrictZeroFields = false ∧
    decode Config.hardware 0x40000000#32 = .unknown 0x40000000#32 ∧
    decode Config.hardware 0x03FFFFFF#32 = .unknown 0x03FFFFFF#32 ∧
    decode Config.hardware 0x70000003#32 = .unknown 0x70000003#32 ∧
    decode Config.hardware 0x041F0000#32 = .unknown 0x041F0000#32 := by decide

theorem witness_DecoderParameters :
    namedOnly.includeUnnamedOps = false ∧ Instr.isUnnamed (.mtlo 8#5) = true ∧
    decode Config.hardware 0x010957E1#32 = .instr (.addu 10#5 8#5 9#5) ∧ strict.decodeStrictZeroFields = true ∧
    0x010957E1#32 &&& Instr.zeroFieldMask (.addu 10#5 8#5 9#5) ≠ 0#32 := by decide

theorem witness_StepRunsDecodedInstruction :
    let s := word { base with pc := 0xFFFFFFFC#32, npc := 0#32 } 0xFFFFFFFC#32 0x24080005#32
    let e := word base 0x00400100#32 0x0085001A#32
    (s.Active ∧ s.pc ∉ s.breakpoints ∧ s.pc.toNat + 4 ≤ 2 ^ 32 ∧
      decode s.config (s.mem.getWord s.pc) = .instr (.addiu 8#5 0#5 5#16) ∧
      ∃ t, exec (.addiu 8#5 0#5 5#16) s = .next t ∧ ¬ t.HasFailed ∧ t.pendingRearm = none) ∧
    (∃ t, exec (.addiu 8#5 0#5 5#16) { s with pendingRearm := some 0xFFFFFFFC#32 } = .next t ∧
      ¬ t.HasFailed ∧ t.pendingRearm = some 0xFFFFFFFC#32) ∧
    (e.Active ∧ e.pc ∉ e.breakpoints ∧ e.pc.toNat + 4 ≤ 2 ^ 32 ∧
      decode e.config (e.mem.getWord e.pc) = .instr (.div 4#5 5#5) ∧
      ∃ t, exec (.div 4#5 5#5) e = .next t ∧ t.HasFailed) :=
  ⟨⟨by decide, by decide, by decide, by decide, _, rfl, notFailed rfl, rfl⟩,
    ⟨_, rfl, notFailed rfl, rfl⟩,
    ⟨by decide, by decide, by decide, by decide, _, rfl, .divideByZero, rfl⟩⟩

theorem witness_UnknownWordStopsTheRun :
    let s := word base 0x00400100#32 0xFFFFFFFF#32
    s.Active ∧ s.pc ∉ s.breakpoints ∧ s.pc.toNat + 4 ≤ 2 ^ 32 ∧
    decode s.config (s.mem.getWord s.pc) = .unknown 0xFFFFFFFF#32 := by decide

theorem witness_BreakpointHitExecutesNothing :
    let s := { base with breakpoints := [0x00400100#32] }
    s.Active ∧ s.pc ∈ s.breakpoints := by decide

theorem witness_StepAfterABreakpointStop :
    let s := word { base with breakpoints := [0x00400100#32] } 0x00400100#32 0x24080005#32
    s.Active ∧ s.pc ∈ s.breakpoints ∧ s.pc.toNat + 4 ≤ 2 ^ 32 ∧
    decode s.config (s.mem.getWord s.pc) = .instr (.addiu 8#5 0#5 5#16) ∧
    ∃ t u, step s = .next t ∧ exec (.addiu 8#5 0#5 5#16) t = .next u ∧ ¬ u.HasFailed :=
  ⟨by decide, by decide, by decide, by decide, _, _, rfl, rfl, notFailed rfl⟩

theorem witness_NoStepWhenHaltedOrFailed :
    State.created.runState = .halted ∧
    { base with runState := .failed .divideByZero }.runState = .failed .divideByZero := ⟨rfl, rfl⟩

theorem witness_ActiveMachineTakesAStep :
    (base.Active ∧ base.Inv ∧ base.config.jrMisaligned ≠ .asIs) ∧
    (let s := { base with pc := 0xFFFFFFFC#32 }
     s.Active ∧ s.pc ∉ s.breakpoints ∧ s.pc.toNat + 4 ≤ 2 ^ 32) ∧
    (let s := { withPolicy .engineError .asIs with pc := 0xFFFFFFFD#32 }
     s.Active ∧ s.pc ∉ s.breakpoints ∧ s.pc.toNat + 4 > 2 ^ 32) := by decide

theorem witness_DelaySlotAlwaysRunsNext :
    (∃ t, exec (.sll 0#5 0#5 0#5) base = .next t ∧ t.lastStop = none) ∧
    Instr.isControlTransfer (.sll 0#5 0#5 0#5) = false := ⟨⟨_, rfl, rfl⟩, rfl⟩

/-- The exact result at both ends of the range, and one past each end, for ADD, SUB and ADDI. -/
theorem witness_TrappingArithmetic :
    (let s := pair 0x7FFFFFFE#32 1#32; signed (s.readReg 8#5) + signed (s.readReg 9#5) = 2 ^ 31 - 1) ∧
    (let s := pair 0x7FFFFFFF#32 1#32; signed (s.readReg 8#5) + signed (s.readReg 9#5) = 2 ^ 31) ∧
    (let s := pair 0x80000001#32 1#32; signed (s.readReg 8#5) - signed (s.readReg 9#5) = -(2 ^ 31)) ∧
    (let s := pair 0x80000000#32 1#32; signed (s.readReg 8#5) - signed (s.readReg 9#5) = -(2 ^ 31) - 1) ∧
    (let s := pair 0x80008000#32 0#32; signed (s.readReg 8#5) + (0x8000#16).toInt = -(2 ^ 31)) ∧
    (let s := pair 0x80007FFF#32 0#32; signed (s.readReg 8#5) + (0x8000#16).toInt = -(2 ^ 31) - 1) := by decide

theorem witness_LinkingBranches :
    (let s := pair 5#32 0#32; (5#32 : Word) = if 8#5 = 31#5 then u32 (s.pc.toNat + 8) else s.readReg 8#5) ∧
    (0x00400108#32 : Word) = if 31#5 = 31#5 then u32 (base.pc.toNat + 8) else base.readReg 31#5 := by decide

theorem witness_IndexJumps :
    let s := { base with npc := 0xFFFFFFFC#32 }
    (0xFFFFFFFC#32 : Word).toNat = s.npc.toNat / 2 ^ 28 * 2 ^ 28 + 4 * (0x3FFFFFF#26).toNat := by decide

theorem witness_RegisterJumps :
    ((pair 0xFFFFFFFC#32 0#32).readReg 8#5).toNat % 4 = 0 ∧
    (((pair 0xFFFFFFFD#32 0#32).readReg 8#5).toNat % 4 ≠ 0 ∧ base.config.jrMisaligned = .engineError) ∧
    (let s := (withPolicy .engineError .truncate).writeReg 8#5 0xFFFFFFFF#32
     (s.readReg 8#5).toNat % 4 ≠ 0 ∧ s.config.jrMisaligned = .truncate) ∧
    (let s := (withPolicy .engineError .asIs).writeReg 8#5 0xFFFFFFFF#32
     (s.readReg 8#5).toNat % 4 ≠ 0 ∧ s.config.jrMisaligned = .asIs) := by decide

theorem witness_MemoryReadsWhatWasWritten :
    (0x10010001#32 : Word) ≠ 0x10010000#32 ∧ (0xFFFFFFFF#32 : Word) ≠ 0#32 + 1#32 ∧
    ∀ k < 4, (0x10010004#32 : Word) ≠ 0x10010000#32 + BitVec.ofNat 32 k := by decide

/-- The last word, half-word and byte of memory, and the misaligned addresses beside them. -/
theorem witness_Loads :
    let ea := effectiveAddress (pair 0xFFFFFFFF#32 0#32) 8#5
    (ea 0xFFFD#16 = 0xFFFFFFFC#32 ∧ (ea 0xFFFD#16).toNat % 4 = 0) ∧ (ea 0xFFFE#16).toNat % 4 ≠ 0 ∧
    ((ea 0xFFFF#16).toNat % 2 = 0 ∧ (ea 0#16).toNat % 2 ≠ 0) ∧ ea 1#16 = 0#32 := by decide

theorem witness_Stores :
    let s := pair 0xFFFFFFFF#32 0x11223344#32
    let ea := effectiveAddress s 8#5
    (ea 0xFFFD#16).toNat % 4 = 0 ∧ (ea 0xFFFE#16).toNat % 4 ≠ 0 ∧ (ea 0xFFFF#16).toNat % 2 = 0 ∧
    (ea 0#16).toNat % 2 ≠ 0 ∧ 0x11223344 = (s.readReg 9#5).toNat := by decide

/-- The four places in the last word of memory. -/
theorem witness_PartialLoads :
    let s := pair 0xFFFFFFFC#32 0x11223344#32
    ∀ k < 4, (0xFFFFFFFC#32 : Word).toNat =
      (effectiveAddress s 8#5 (BitVec.ofNat 16 k)).toNat - (effectiveAddress s 8#5 (BitVec.ofNat 16 k)).toNat % 4 := by
  decide

theorem witness_PartialStores :
    let s := pair 0x10010000#32 0x11223344#32
    ∀ k < 4, (0x10010000#32 : Word).toNat =
      (effectiveAddress s 8#5 (BitVec.ofNat 16 k)).toNat - (effectiveAddress s 8#5 (BitVec.ofNat 16 k)).toNat % 4 := by
  decide

theorem witness_UnalignedStorePair :
    (let s := pair 0xFFFFFFFC#32 0x11223344#32
     effectiveAddress s 8#5 0#16 = 0xFFFFFFFC#32 ∧ effectiveAddress s 8#5 3#16 = 0xFFFFFFFC#32 + 3#32 ∧
     (0xFFFFFFFC#32 : Word).toNat + 3 ≤ 0xFFFFFFFF) ∧
    (let s := pair 0x10010001#32 0x11223344#32
     effectiveAddress s 8#5 0#16 = 0x10010001#32 ∧ effectiveAddress s 8#5 3#16 = 0x10010001#32 + 3#32 ∧
     (0x10010001#32 : Word).toNat + 3 ≤ 0xFFFFFFFF) := by decide

theorem witness_UnalignedLoadPair :
    let s := pair 0x10010003#32 0x99999999#32
    9#5 ≠ 8#5 ∧ effectiveAddress s 8#5 0#16 = 0x10010003#32 ∧
    effectiveAddress s 8#5 3#16 = 0x10010003#32 + 3#32 ∧ (0x10010003#32 : Word).toNat + 3 ≤ 0xFFFFFFFF := by decide

theorem witness_StoreIsSeenByTheNextFetch :
    let s := word (regs [(8#5, 0x2409002A#32), (16#5, 0x00400104#32)]) 0x00400100#32 0xAE080000#32
    s.Active ∧ s.pc ∉ s.breakpoints ∧ s.npc ∉ s.breakpoints ∧ s.pendingRearm = none ∧
    s.pc.toNat + 4 ≤ 2 ^ 32 ∧ s.npc.toNat % 4 = 0 ∧
    decode s.config (s.mem.getWord s.pc) = .instr (.sw 8#5 16#5 0#16) ∧ effectiveAddress s 16#5 0#16 = s.npc ∧
    s.readReg 8#5 = encode (.addiu 9#5 0#5 0x2A#16) ∧ Instr.WellFormed s.config (.addiu 9#5 0#5 0x2A#16) = true := by
  decide

theorem witness_MulWritesARegister :
    base.config.mulWritesHiLo = true ∧
    { base with config := { Config.hardware with mulWritesHiLo := false } }.config.mulWritesHiLo = false := ⟨rfl, rfl⟩

theorem witness_SignedDivide :
    let s := pair 0x80000000#32 1#32
    (-(2 ^ 31) : Int) = signed (s.readReg 8#5) ∧ 1 = signed (s.readReg 9#5) ∧ (1 : Int) ≠ 0 ∧
    ¬ ((-(2 ^ 31) : Int) = -(2 ^ 31) ∧ (1 : Int) = -1) := by decide

theorem witness_UnsignedDivide : (pair 0x80000000#32 0xFFFFFFFF#32).readReg 9#5 ≠ 0#32 := by decide

theorem witness_DivisionCorners :
    (base.readReg 9#5 = 0#32 ∧ base.config.divCorner = .engineError) ∧
    ((withPolicy .mipsValues .engineError).readReg 9#5 = 0#32 ∧
      (withPolicy .mipsValues .engineError).config.divCorner = .mipsValues) ∧
    (let s := pair 0x80000000#32 0xFFFFFFFF#32
     s.readReg 8#5 = 0x80000000#32 ∧ s.readReg 9#5 = 0xFFFFFFFF#32 ∧ s.config.divCorner = .engineError) ∧
    (let s := ((withPolicy .mipsValues .engineError).writeReg 8#5 0x80000000#32).writeReg 9#5 0xFFFFFFFF#32
     s.readReg 8#5 = 0x80000000#32 ∧ s.readReg 9#5 = 0xFFFFFFFF#32 ∧ s.config.divCorner = .mipsValues) := by decide

/-- A string of two bytes, the empty string at the last byte of memory, and no zero byte up to the top. -/
theorem witness_PrintServices :
    (regs [(2#5, 1#32), (4#5, 0x80000000#32)]).readReg 2#5 = 1#32 ∧
    (let s := word (regs [(2#5, 4#32), (4#5, 0xFFFFFFFD#32)]) 0xFFFFFFFC#32 0x00694800#32
     s.readReg 2#5 = 4#32 ∧ (s.readReg 4#5).toNat + [0x48#8, 0x69#8].length < 2 ^ 32 ∧
     (∀ k (h : k < [0x48#8, 0x69#8].length),
       s.mem.getByte (s.readReg 4#5 + BitVec.ofNat 32 k) = [0x48#8, 0x69#8][k] ∧ [0x48#8, 0x69#8][k] ≠ 0#8) ∧
     s.mem.getByte (s.readReg 4#5 + BitVec.ofNat 32 [0x48#8, 0x69#8].length) = 0#8) ∧
    (let s := regs [(2#5, 4#32), (4#5, 0xFFFFFFFF#32)]
     s.readReg 2#5 = 4#32 ∧ (s.readReg 4#5).toNat + ([] : List Byte).length < 2 ^ 32 ∧
     s.mem.getByte (s.readReg 4#5 + BitVec.ofNat 32 ([] : List Byte).length) = 0#8) := by decide

theorem witness_PrintServices_unterminated :
    let s := word (regs [(2#5, 4#32), (4#5, 0xFFFFFFFE#32)]) 0xFFFFFFFC#32 0x42410000#32
    s.readReg 2#5 = 4#32 ∧ ∀ a : Word, s.readReg 4#5 ≤ a → s.mem.getByte a ≠ 0#8 := by
  refine ⟨by decide, fun a h => ?_⟩
  have h : 0xFFFFFFFE ≤ a.toNat := h
  have := a.isLt
  have h2 : a = 0xFFFFFFFE#32 ∨ a = 0xFFFFFFFF#32 := by
    rw [← BitVec.toNat_inj, ← BitVec.toNat_inj, BitVec.toNat_ofNat, BitVec.toNat_ofNat]
    omega
  rcases h2 with rfl | rfl <;> decide

theorem witness_ReadIntegerService :
    (let s := { regs [(2#5, 5#32)] with intInputs := [some 0xFFFFFFF9#32] }
     s.readReg 2#5 = 5#32 ∧ s.intInputs = some 0xFFFFFFF9#32 :: []) ∧
    (let s := { regs [(2#5, 5#32)] with intInputs := [none] }
     s.readReg 2#5 = 5#32 ∧ s.intInputs = none :: []) ∧
    (let s := regs [(2#5, 5#32)]
     s.readReg 2#5 = 5#32 ∧ s.intInputs = []) := by decide

/-- Service 8 with room for three bytes at `a`, and a line of three. -/
def reader (a : Word) : State :=
  { regs [(2#5, 8#32), (4#5, a), (5#5, 4#32)] with lineInputs := [[0x68#8, 0x65#8, 0x6C#8]] }

/-- What service 8 takes of that line, for both values of READ_STRING_KEEPS_NEWLINE. -/
def taken (a : Word) : List Byte :=
  acceptLine (reader a).config.readStringKeepsNewline [0x68#8, 0x65#8, 0x6C#8] 3

/-- The terminator on the last byte of memory, and one byte past it; and no delivery fixed in advance. -/
theorem witness_ReadStringService :
    ((reader 0xFFFFFFFC#32).readReg 2#5 = 8#32 ∧ (reader 0xFFFFFFFC#32).readReg 5#5 = 4#32 ∧
      (reader 0xFFFFFFFC#32).lineInputs = [0x68#8, 0x65#8, 0x6C#8] :: [] ∧ (taken 0xFFFFFFFC#32).length = 3 ∧
      (reader 0xFFFFFFFC#32).readReg 4#5 = 0xFFFFFFFC#32 ∧ 0xFFFFFFFC + 3 ≤ 0xFFFFFFFF) ∧
    ((reader 0xFFFFFFFD#32).readReg 2#5 = 8#32 ∧ (reader 0xFFFFFFFD#32).readReg 5#5 = 4#32 ∧
      (reader 0xFFFFFFFD#32).lineInputs = [0x68#8, 0x65#8, 0x6C#8] :: [] ∧ (taken 0xFFFFFFFD#32).length = 3 ∧
      (reader 0xFFFFFFFD#32).readReg 4#5 = 0xFFFFFFFD#32 ∧ 0xFFFFFFFD + 3 > 0xFFFFFFFF) ∧
    (let s := regs [(2#5, 8#32), (4#5, 0xFFFFFFFC#32), (5#5, 4#32)]
     s.readReg 2#5 = 8#32 ∧ s.readReg 5#5 ≠ 0#32 ∧ s.lineInputs = []) := by decide

theorem witness_NewlineEndsTheString : (0x0A#8 : Byte) ∉ [0x68#8, 0x65#8, 0x6C#8] := by decide

theorem witness_ExitAndUnknownServices :
    (regs [(2#5, 10#32)]).readReg 2#5 = 10#32 ∧
    (regs [(2#5, 8#32)]).readReg 2#5 = 8#32 ∧ (regs [(2#5, 8#32)]).readReg 5#5 = 0#32 ∧
    (regs [(2#5, 0x8000000A#32)]).readReg 2#5 ∉ [1#32, 4#32, 5#32, 8#32, 10#32] := by decide

theorem witness_BreakPausesTheRun :
    base.config.breakAdvancesPc = true ∧
    { base with config := { Config.hardware with breakAdvancesPc := false } }.config.breakAdvancesPc = false :=
  ⟨rfl, rfl⟩

theorem witness_TrapOnEqualRegisters :
    (pair 5#32 5#32).readReg 8#5 = (pair 5#32 5#32).readReg 9#5 ∧
    (pair 5#32 6#32).readReg 8#5 ≠ (pair 5#32 6#32).readReg 9#5 := by decide

theorem witness_InvariantHoldsAtReset :
    ∃ t, resetPort ⟨2, 8, 0xFFFFFFFF#32, [⟨1, 0x00400000#32, [7#8]⟩]⟩ base = .ok t := ⟨_, rfl⟩

theorem witness_StepKeepsTheInvariant : base.Inv ∧ ∃ t, step base = .next t := ⟨by decide, _, rfl⟩

theorem witness_EngineErrorChangesNothing :
    base.Active ∧ ∃ t, exec (.div 4#5 5#5) base = .next t ∧ t.runState = .failed .divideByZero :=
  ⟨by decide, _, rfl, rfl⟩

theorem witness_TrapsAreReportedNoOps :
    (∃ t, exec (.lw 8#5 0#5 1#16) base = .next t ∧ (effectiveAddress base 0#5 1#16).toNat % 4 ≠ 0) ∧
    ∃ t, exec (.teq 0#5 0#5) base = .next t ∧ t.reports ≠ base.reports :=
  ⟨⟨_, rfl, by decide⟩, _, rfl, by decide⟩

theorem witness_FrameOfEveryInstruction :
    (∃ t, exec (.add 10#5 8#5 9#5) base = .next t ∧ Instr.destination (.add 10#5 8#5 9#5) ≠ some 8#5 ∧
      Instr.writesHiLo (.add 10#5 8#5 9#5) = false ∧ Instr.isStore (.add 10#5 8#5 9#5) = false ∧
      ¬ (Instr.add 10#5 8#5 9#5 = .syscall ∧ base.readReg 2#5 = 8#32)) ∧
    ∃ t, exec .syscall (regs [(2#5, 1#32)]) = .next t ∧ (regs [(2#5, 1#32)]).readReg 2#5 ≠ 5#32 :=
  ⟨⟨_, rfl, by decide, by decide, by decide, by decide⟩, _, rfl, by decide⟩

theorem witness_BreakpointsAreInvisible : ∃ t, exec (.jr 8#5) base = .next t := ⟨_, rfl⟩

theorem witness_ResetValues :
    ∃ t, resetPort ⟨2, 8, 0x00400003#32, [⟨1, 0x00400000#32, [5#8, 0#8, 8#8, 0x24#8]⟩]⟩ base = .ok t := ⟨_, rfl⟩

/-- A segment that ends at the top of memory is accepted; one byte more is not. -/
theorem witness_ResetChecks :
    (1 ≠ 2 ∧ 9 ≠ 8) ∧
    (∃ g ∈ [(⟨1, 0xFFFFFFFF#32, [7#8, 8#8]⟩ : Segment)], g.kind = 1 ∧ g.addr.toNat + g.bytes.length > 2 ^ 32) ∧
    ∀ g ∈ [(⟨1, 0xFFFFFFFF#32, [7#8]⟩ : Segment)], g.kind = 1 → g.addr.toNat + g.bytes.length ≤ 2 ^ 32 := by decide

/-- Two segments over the same byte: the later one holds it; the byte beside them is in neither. -/
theorem witness_ImageInMemory :
    let g : Segment := ⟨1, 0x00400000#32, [5#8]⟩
    let g' : Segment := ⟨1, 0x00400000#32, [6#8]⟩
    (∃ t, resetPort ⟨2, 8, 0x00400000#32, [g, g']⟩ base = .ok t) ∧
    (∀ h ∈ [g, g'], h.kind = 1 → ∀ k < h.bytes.length, 0x00400001#32 ≠ h.addr + BitVec.ofNat 32 k) ∧
    [g, g'] = [g] ++ g' :: [] ∧ g'.kind = 1 ∧ 0x00400000#32 = g'.addr + BitVec.ofNat 32 0 :=
  ⟨⟨_, rfl⟩, by decide, rfl, rfl, rfl⟩

theorem witness_SingleStepCall :
    base.Active ∧
    (∃ t, step { base with breakpoints := [0x00400100#32], runState := .running } = .next t ∧
      t.lastStop = some (.breakpoint 0x00400100#32)) ∧
    (∃ t, step { (regs [(2#5, 10#32)]).withFetchWord 32 0x0000000C with runState := .running } = .next t ∧
      t.lastStop = some .exit) ∧
    (∃ t, step { base.withFetchWord 32 0xFFFFFFFF with runState := .running } = .next t ∧
      t.lastStop = some (.engineError (.unknownInstruction 0xFFFFFFFF#32))) ∧
    ∃ t, step { base with runState := .running } = .next t ∧ t.lastStop = none :=
  ⟨by decide, ⟨_, rfl, rfl⟩, ⟨_, rfl, rfl⟩, ⟨_, rfl, rfl⟩, _, rfl, rfl⟩

theorem witness_RunReturnsWithItsRunState :
    (∃ t, run false 1 (base.withFetchWord 32 0x0000000D) = .returned (.breakpoint 0x00400100#32) t) ∧
    (∃ t, run true 1 base = .returned .completed t) ∧
    (∃ t, run false 0 State.created = .returned .exit t) ∧
    ∃ t, run false 1 (base.withFetchWord 32 0xFFFFFFFF) =
      .returned (.error (.unknownInstruction 0xFFFFFFFF#32)) t :=
  ⟨⟨_, rfl⟩, ⟨_, rfl⟩, ⟨_, rfl⟩, _, rfl⟩

theorem witness_BreakpointToggle :
    BreakSet.wf { base with breakpoints := [0#32, 0x00400100#32, 0xFFFFFFFF#32] }.breakpoints = true := by decide

/-- The registers and addresses at the ends of the ranges. -/
theorem witness_DebugPortAccesses :
    (32 ≥ 32 ∧ 31 < 32) ∧ (0xFFFFFFFD#32 : Word).toNat > 0xFFFFFFFC ∧ (0xFFFFFFFC#32 : Word).toNat ≤ 0xFFFFFFFC ∧
    (0xFFFFFFFF#32 : Word).toNat = 0xFFFFFFFF ∧ (0xFFFFFFFE#32 : Word).toNat < 0xFFFFFFFF := by decide

end Sys2Proof.Tests
end

section
/-! SUPPORT. What an instruction can do, said once. An instruction makes one update of the state (`Update`) and ends
in one of four ways (`Effect`); `exec_answers` says so of all 60. Frame and invariant follow by cases on the two. -/

namespace Sys2Proof.Machine

/-- The updates an instruction can make of the state it starts in, before the pair moves. -/
inductive Update (i : Instr) (s : State) : State → Prop where
  | nothing : Update i s s
  | reported (cause : TrapCause) : Update i s (s.report s.pc cause)
  | register (rd : RegIdx) (v : Word) (hd : i.destination = some rd) (hi : i ≠ .syscall) :
      Update i s (s.writeReg rd v)
  | hiLo (h l : Word) (hw : i.writesHiLo = true) : Update i s (s.setHiLo h l)
  | freeHiLo (hw : i.writesHiLo = true) : Update i s s.drawHiLo
  | product (rd : RegIdx) (v h l : Word) (hd : i.destination = some rd) (hi : i ≠ .syscall)
      (hw : i.writesHiLo = true) : Update i s ((s.setHiLo h l).writeReg rd v)
  | stored (a : Word) (bs : List Byte) (hs : i.isStore = true) : Update i s (s.setMem (s.mem.setBytes a bs))
  | printed (o : EnvOutput) (hi : i = .syscall) : Update i s (s.emit o)
  | integerRead (v : Word) (hi : i = .syscall) (hn : s.readReg 2#5 = 5#32) :
      Update i s (s.drawInt.2.writeReg 2#5 v)
  | lineRead (a : Word) (bs : List Byte) (hi : i = .syscall) (hn : s.readReg 2#5 = 8#32) :
      Update i s (s.drawLine.2.setMem (s.mem.setBytes a bs))

/-- From an aligned `npc`, `target` is aligned, but under JR_MISALIGNED_POLICY = as_is (41_branch_jump.md R130). -/
def AlignedTarget (s : State) (target : Word) : Prop :=
  s.config.jrMisaligned ≠ .asIs → s.npc.toNat % 4 = 0 → target.toNat % 4 = 0

/-- Everything an instruction that starts in `s` can leave (50_step_cycle.md R224, R229, R230). -/
inductive Effect (i : Instr) (s : State) : State → Prop where
  | goesOn {u : State} (target : Word) (hu : Update i s u) (ht : AlignedTarget s target) :
      Effect i s (u.advanceTo target)
  | exits (hi : i = .syscall) (hn : s.readReg 2#5 = 10#32) : Effect i s (s.stop .halted .exit)
  | breaks {u : State} (hi : i = .brk) (hu : u = s ∨ u = s.advance) :
      Effect i s (u.stop .paused (.breakpoint s.pc))
  | fails (k : EngineError) : Effect i s (s.failedWith k)

/-- The answer `r` of instruction `i` in state `s` is a next state, and that is one the instruction can leave. -/
def Answers (i : Instr) (s : State) (r : Result) : Prop := ∃ t, r = .next t ∧ Effect i s t

/-! ## Targets -/

theorem alignedTarget_next (s : State) : AlignedTarget s (s.npc + 4#32) := by
  intro _ h
  rw [BitVec.toNat_add, BitVec.toNat_ofNat]
  omega

theorem alignedTarget_branch (s : State) (imm : Imm16) : AlignedTarget s (s.npc + branchOffset imm) := by
  intro _ h
  have := toNat_u32 (s.npc.toNat + 4 * imm.toInt)
  rw [add_branchOffset]
  omega

theorem alignedTarget_index (s : State) (index : BitVec 26) :
    AlignedTarget s ((s.npc &&& 0xF0000000#32) ||| (index.setWidth 32 <<< 2)) := by
  intro _ _
  rw [jumpRegion_toNat]
  omega

/-- A register target that is accepted is aligned, but under `as_is` (41_branch_jump.md R130). -/
theorem alignedTarget_register {s : State} {v target : Word} (h : registerTarget s.config v = .ok target) :
    AlignedTarget s target := by
  intro hp _
  by_cases hv : v.toNat % 4 = 0
  · rw [registerTarget_aligned _ hv] at h
    cases h
    exact hv
  · rw [registerTarget_misaligned _ hv] at h
    cases hj : s.config.jrMisaligned with
    | asIs => exact absurd hj hp
    | engineError => simp [hj] at h
    | truncate =>
      simp only [hj, Except.ok.injEq] at h
      have := toNat_u32 (v.toNat - v.toNat % 4)
      rw [← h]
      omega

/-! ## The ends of an instruction answer -/

section
variable {i : Instr} {s u : State}

theorem Update.answers_advanceTo (hu : Update i s u) {target : Word} (ht : AlignedTarget s target) :
    Answers i s (.next (u.advanceTo target)) :=
  ⟨_, rfl, .goesOn target hu ht⟩

theorem Update.npc_eq (hu : Update i s u) : u.npc = s.npc := by
  cases hu with
  | integerRead => simp
  | lineRead => simp
  | _ => rfl

theorem Update.answers_proceed (hu : Update i s u) : Answers i s (proceed u) :=
  hu.answers_advanceTo (hu.npc_eq ▸ alignedTarget_next s)

theorem Update.answers_branchIf (hu : Update i s u) (cond : Bool) (imm : Imm16) :
    Answers i s (branchIf cond imm u) := by
  cases cond with
  | false => exact hu.answers_proceed
  | true => exact hu.answers_advanceTo (hu.npc_eq ▸ alignedTarget_branch s imm)

theorem Update.answers_jumpIndex (hu : Update i s u) (index : BitVec 26) : Answers i s (jumpIndex index u) :=
  hu.answers_advanceTo (hu.npc_eq ▸ alignedTarget_index s index)

theorem answers_raiseTrap (cause : TrapCause) : Answers i s (raiseTrap cause s) :=
  Update.answers_proceed (.reported cause)

theorem answers_raiseEngineError (k : EngineError) : Answers i s (raiseEngineError k s) :=
  ⟨_, rfl, .fails k⟩

theorem answers_writeReg {rd : RegIdx} {v : Word} (hd : i.destination = some rd) (hi : i ≠ .syscall) :
    Answers i s (proceed (s.writeReg rd v)) :=
  Update.answers_proceed (.register rd v hd hi)

theorem answers_writeOrOverflow {rd : RegIdx} {z : Int} {cause : TrapCause} (hd : i.destination = some rd)
    (hi : i ≠ .syscall) : Answers i s (writeOrOverflow cause rd z s) := by
  unfold writeOrOverflow
  split
  · exact answers_writeReg hd hi
  · exact answers_raiseTrap cause

theorem answers_ite_raiseTrap {p : Prop} [Decidable p] {r : Result} {cause : TrapCause} (hr : Answers i s r) :
    Answers i s (if p then r else raiseTrap cause s) := by
  split
  · exact hr
  · exact answers_raiseTrap cause

theorem answers_setHiLo {h l : Word} (hw : i.writesHiLo = true) : Answers i s (proceed (s.setHiLo h l)) :=
  Update.answers_proceed (.hiLo h l hw)

theorem answers_setBytes {a : Word} {bs : List Byte} (hs : i.isStore = true) :
    Answers i s (proceed (s.setMem (s.mem.setBytes a bs))) :=
  Update.answers_proceed (.stored a bs hs)

theorem answers_divideByZero (hw : i.writesHiLo = true) : Answers i s (divideByZero s) := by
  unfold divideByZero
  split
  · exact answers_raiseEngineError _
  · exact Update.answers_proceed (.freeHiLo hw)

theorem answers_divideOverflow (hw : i.writesHiLo = true) : Answers i s (divideOverflow s) := by
  unfold divideOverflow
  split
  · exact answers_raiseEngineError _
  · exact answers_setHiLo hw

end

/-! ## Instructions with branches of their own -/

theorem answers_jr (rs : RegIdx) (s : State) : Answers (.jr rs) s (execJr rs s) := by
  unfold execJr
  split
  · next h => exact Update.nothing.answers_advanceTo (alignedTarget_register h)
  · exact answers_raiseEngineError _

theorem answers_jalr (rd rs : RegIdx) (s : State) : Answers (.jalr rd rs) s (execJalr rd rs s) := by
  unfold execJalr
  split
  · next h =>
    have hu : Update (.jalr rd rs) s (s.writeReg rd (linkValue s)) := .register rd _ rfl nofun
    exact hu.answers_advanceTo (alignedTarget_register h)
  · exact answers_raiseEngineError _

theorem answers_mul (rd rs rt : RegIdx) (s : State) : Answers (.mul rd rs rt) s (execMul rd rs rt s) := by
  unfold execMul
  cases s.config.mulWritesHiLo with
  | false => exact answers_writeReg rfl nofun
  | true => exact Update.answers_proceed (.product rd _ _ _ rfl nofun rfl)

theorem answers_div (rs rt : RegIdx) (s : State) : Answers (.div rs rt) s (execDiv rs rt s) := by
  unfold execDiv
  dsimp only
  split
  · exact answers_divideByZero rfl
  · split
    · exact answers_divideOverflow rfl
    · exact answers_setHiLo rfl

theorem answers_divu (rs rt : RegIdx) (s : State) : Answers (.divu rs rt) s (execDivu rs rt s) := by
  unfold execDivu
  dsimp only
  split
  · exact answers_divideByZero rfl
  · exact answers_setHiLo rfl

theorem answers_teq (rs rt : RegIdx) (s : State) : Answers (.teq rs rt) s (execTeq rs rt s) := by
  unfold execTeq
  split
  · exact answers_raiseTrap _
  · exact Update.nothing.answers_proceed

theorem answers_brk (s : State) : Answers .brk s (execBreak s) := by
  refine ⟨_, rfl, .breaks rfl ?_⟩
  split
  · exact .inr rfl
  · exact .inl rfl

theorem answers_printString (s : State) : Answers .syscall s (servicePrintString s) := by
  unfold servicePrintString
  dsimp only
  split
  · exact Update.answers_proceed (.printed _ rfl)
  · exact answers_raiseEngineError _

theorem answers_readInt {s : State} (hn : s.readReg 2#5 = 5#32) : Answers .syscall s (serviceReadInt s) := by
  unfold serviceReadInt
  split
  · exact Update.answers_proceed (.integerRead _ rfl hn)
  · exact answers_raiseEngineError _

theorem answers_readString {s : State} (hn : s.readReg 2#5 = 8#32) :
    Answers .syscall s (serviceReadString s) := by
  unfold serviceReadString
  dsimp only
  split
  · exact answers_raiseEngineError _
  · split
    · exact answers_raiseEngineError _
    · exact Update.answers_proceed (.lineRead _ _ rfl hn)

theorem answers_syscall (s : State) : Answers .syscall s (execSyscall s) := by
  unfold execSyscall
  dsimp only
  split
  · exact Update.answers_proceed (.printed _ rfl)
  split
  · exact answers_printString s
  split
  · next hn => exact answers_readInt hn
  split
  · next hn => exact answers_readString hn
  split
  · next hn => exact ⟨_, rfl, .exits rfl hn⟩
  · exact answers_raiseEngineError _

/-- Every instruction answers a next state, and one that `Effect` lists. -/
theorem exec_answers (i : Instr) (s : State) : Answers i s (exec i s) := by
  cases i with
  | add | addi | sub => exact answers_writeOrOverflow rfl nofun
  | addu | addiu | subu | mfhi | mflo | and | or | xor | nor | andi | ori | xori | lui
  | sll | srl | sra | sllv | srlv | srav | slt | sltu | slti | sltiu
  | lb | lbu | lwl | lwr => exact answers_writeReg rfl nofun
  | lw | lh | lhu => exact answers_ite_raiseTrap (answers_writeReg rfl nofun)
  | sw | sh => exact answers_ite_raiseTrap (answers_setBytes rfl)
  | sb => exact Update.answers_proceed (.stored _ [_] rfl)
  | swl | swr => exact answers_setBytes rfl
  | beq | bne | blez | bgtz | bltz | bgez => exact Update.nothing.answers_branchIf _ _
  | bltzal | bgezal =>
    refine Update.answers_branchIf ?_ _ _
    exact .register 31#5 _ rfl nofun
  | j index => exact Update.nothing.answers_jumpIndex index
  | jal index =>
    refine Update.answers_jumpIndex ?_ index
    exact .register 31#5 _ rfl nofun
  | jr rs => exact answers_jr rs s
  | jalr rd rs => exact answers_jalr rd rs s
  | mult | multu | mthi | mtlo => exact answers_setHiLo rfl
  | mul rd rs rt => exact answers_mul rd rs rt s
  | div rs rt => exact answers_div rs rt s
  | divu rs rt => exact answers_divu rs rt s
  | syscall => exact answers_syscall s
  | brk => exact answers_brk s
  | teq rs rt => exact answers_teq rs rt s

/-- Everything an instruction that answers a next state can have left: the case split for frames and invariants. -/
theorem exec_effect {i : Instr} {s t : State} (h : exec i s = .next t) : Effect i s t := by
  obtain ⟨u, hu, he⟩ := exec_answers i s
  rw [hu] at h
  cases h
  exact he

end Sys2Proof.Machine
end

section
/-! SUPPORT. The frame of every update and of every effect (10_state.md R20 to R35; 20_memory.md R54). -/

namespace Sys2Proof.Machine

section
variable {i : Instr} {s t u : State}

/-- No register but the instruction's destination is written (10_state.md R24). -/
theorem Update.readReg_eq (hu : Update i s u) {r : RegIdx} (hr : i.destination ≠ some r) :
    u.readReg r = s.readReg r := by
  cases hu with
  | register rd v hd => rw [State.readReg_writeReg, if_neg (by rintro ⟨rfl, _⟩; exact hr hd)]
  | product rd v h l hd =>
    rw [State.readReg_writeReg, if_neg (by rintro ⟨rfl, _⟩; exact hr hd), State.readReg_setHiLo]
  | integerRead v hi =>
    subst hi
    rw [State.readReg_writeReg, if_neg (by rintro ⟨rfl, _⟩; exact hr rfl), State.readReg_drawInt]
  | lineRead => rw [State.readReg_setMem, State.readReg_drawLine]
  | nothing | reported | hiLo | freeHiLo | stored | printed => rfl

/-- SYSCALL writes a register in service 5 only (46_system.md R185). -/
theorem Update.sameRegs_syscall (hu : Update .syscall s u) (hn : s.readReg 2#5 ≠ 5#32) : SameRegs s u := by
  cases hu with
  | register _ _ _ hi | product _ _ _ _ _ hi => exact absurd rfl hi
  | integerRead _ _ h5 => exact absurd h5 hn
  | hiLo _ _ hw | freeHiLo hw => cases hw
  | stored _ _ hs => cases hs
  | lineRead => exact fun r => State.readReg_drawLine s r
  | nothing | reported | printed => exact fun _ => rfl

/-- `hi` and `lo` are written by the instructions of `writesHiLo` only (10_state.md R27). -/
theorem Update.sameHiLo (hu : Update i s u) (hw : i.writesHiLo = false) : SameHiLo s u := by
  cases hu with
  | hiLo _ _ h | freeHiLo h | product _ _ _ _ _ _ h => rw [hw] at h; cases h
  | integerRead => exact ⟨State.drawInt_hi s, State.drawInt_lo s⟩
  | lineRead => exact ⟨State.drawLine_hi s, State.drawLine_lo s⟩
  | nothing | reported | register | stored | printed => exact ⟨rfl, rfl⟩

/-- Memory is written by the stores and service 8 only (20_memory.md R54). -/
theorem Update.mem_eq (hu : Update i s u) (hs : i.isStore = false)
    (hn : ¬ (i = .syscall ∧ s.readReg 2#5 = 8#32)) : u.mem = s.mem := by
  cases hu with
  | stored _ _ h => rw [hs] at h; cases h
  | lineRead _ _ hi h8 => exact absurd ⟨hi, h8⟩ hn
  | integerRead => exact State.drawInt_mem s
  | nothing | reported | register | hiLo | freeHiLo | product | printed => rfl

/-- Whatever is stored, memory stays in canonical form. -/
theorem Update.mem_wf (hu : Update i s u) (h : s.mem.wf = true) : u.mem.wf = true := by
  cases hu with
  | stored a bs | lineRead a bs => exact Memory.wf_setBytes a bs h
  | integerRead => exact (State.drawInt_mem s).symm ▸ h
  | nothing | reported | register | hiLo | freeHiLo | product | printed => exact h

theorem Update.sameControl (hu : Update i s u) : SameControl s u := by
  cases hu with
  | integerRead => exact ⟨State.drawInt_breakpoints s, State.drawInt_pendingRearm s, State.drawInt_config s⟩
  | lineRead => exact ⟨State.drawLine_breakpoints s, State.drawLine_pendingRearm s, State.drawLine_config s⟩
  | nothing | reported | register | hiLo | freeHiLo | product | stored | printed => exact sameControl_refl s

/-- Only SYSCALL uses the environment port (46_system.md R182). -/
theorem Update.env_eq (hu : Update i s u) (hi : i ≠ .syscall) :
    u.outputs = s.outputs ∧ u.intInputs = s.intInputs ∧ u.lineInputs = s.lineInputs := by
  cases hu with
  | printed _ h | integerRead _ h | lineRead _ _ h => exact absurd h hi
  | nothing | reported | register | hiLo | freeHiLo | product | stored => exact ⟨rfl, rfl, rfl⟩

/-- An effect is an update, with other values of `pc`, `npc`, the run state and the record of the stop. -/
theorem Effect.exists_update (h : Effect i s t) :
    ∃ u, Update i s u ∧
      t = { u with pc := t.pc, npc := t.npc, runState := t.runState, lastStop := t.lastStop } := by
  cases h with
  | goesOn target hu => exact ⟨_, hu, rfl⟩
  | breaks _ hu => obtain rfl | rfl := hu <;> exact ⟨_, .nothing, rfl⟩
  | exits | fails => exact ⟨s, .nothing, rfl⟩

end

/-- Settles O51: the frame of the one update that an instruction makes, whatever way it ends. -/
theorem frameOfEveryInstruction : Obligations.FrameOfEveryInstruction := by
  intro i s t h
  obtain ⟨u, hu, ht⟩ := (exec_effect h).exists_update
  rw [ht]
  refine ⟨fun r hr => hu.readReg_eq hr, hu.sameHiLo, fun hs hn a => ?_, ?_, hu.sameControl, hu.env_eq⟩
  · exact congrArg (Memory.getByte · a) (hu.mem_eq hs hn)
  · rintro rfl hn
    exact hu.sameRegs_syscall hn

end Sys2Proof.Machine
end

section
/-! SUPPORT. The invariant: kept by every effect, by the breakpoint logic, hence by every step (10_state.md R32). -/

namespace Sys2Proof.Machine

section
variable {i : Instr} {s t : State}

theorem State.Inv.goesOn {u : State} {target : Word} (h : s.Inv) (hu : Update i s u)
    (ht : AlignedTarget s target) : (u.advanceTo target).Inv := by
  obtain ⟨hm, hb, ha⟩ := h
  obtain ⟨hbe, -, hc⟩ := hu.sameControl
  refine ⟨hu.mem_wf hm, ?_, fun hp => ?_⟩
  · simpa [hbe] using hb
  · simp only [State.advanceTo_config, hc] at hp
    obtain ⟨-, hnpc⟩ := ha hp
    simp only [State.advanceTo_pc, State.advanceTo_npc, hu.npc_eq]
    exact ⟨hnpc, ht hp hnpc⟩

theorem State.Inv.effect (h : s.Inv) (he : Effect i s t) : t.Inv := by
  cases he with
  | goesOn target hu ht => exact h.goesOn hu ht
  | breaks _ hu =>
    obtain rfl | rfl := hu
    · exact h
    · exact h.goesOn (i := i) .nothing (alignedTarget_next s)
  | exits | fails => exact h

/-- What was fetched, decoded or unknown, keeps the invariant when executed. -/
theorem State.Inv.execDecoded {d : Decoded} (h : s.Inv) (hd : execDecoded d s = .next t) : t.Inv := by
  cases d with
  | instr i => exact h.effect (exec_effect hd)
  | unknown word =>
    cases hd
    exact h

theorem State.Inv.breakpointStop (h : s.Inv) : s.breakpointStop.Inv := by
  obtain ⟨hm, hb, ha⟩ := h
  exact ⟨hm, BreakSet.wf_erase s.pc hb, ha⟩

theorem State.Inv.rearm (h : s.Inv) : s.rearm.Inv := by
  obtain ⟨hm, hb, ha⟩ := h
  unfold State.rearm
  split
  · next a _ => exact ⟨hm, BreakSet.wf_insert a hb, ha⟩
  · exact ⟨hm, hb, ha⟩

end

/-- Settles O48, by cases on what a step can do: a breakpoint stop, or an execution that fails or is re-armed. -/
theorem stepKeepsTheInvariant : Obligations.StepKeepsTheInvariant := by
  intro s t h hstep
  obtain ⟨-, ⟨-, rfl⟩ | ⟨-, -, u, hu, ⟨-, rfl⟩ | ⟨-, rfl⟩⟩⟩ := step_cases hstep
  · exact h.breakpointStop
  · exact h.execDecoded hu
  · exact (h.execDecoded hu).rearm

end Sys2Proof.Machine
end

section
/-! SUPPORT. The reset port (70_reset_and_hazards.md R281, R282). -/

namespace Sys2Proof.Machine

/-- A reset is accepted only when every segment fits, and then its state is `afterReset`. -/
theorem resetPort_ok {elf : ElfInput} {s t : State} (h : resetPort elf s = .ok t) :
    t = s.afterReset elf ∧ ∀ g ∈ elf.segments, g.fits = true := by
  unfold resetPort at h
  split at h
  · cases h
  split at h
  · cases h
  split at h
  · next hall =>
    cases h
    exact ⟨rfl, List.all_eq_true.mp hall⟩
  · cases h

theorem accessFits_iff (a : Word) (n : Nat) : accessFits a n = true ↔ a.toNat + n ≤ 2 ^ 32 := decide_eq_true_iff

theorem Segment.length_le {g : Segment} (h : g.fits = true) (hk : g.kind = 1) : g.bytes.length ≤ 2 ^ 32 := by
  have hf : accessFits g.addr g.bytes.length = true := by simpa [Segment.fits, ptLoad, hk] using h
  rw [accessFits_iff] at hf
  omega

theorem entryOf_toNat (rawEntry : Word) :
    (entryOf rawEntry).toNat = rawEntry.toNat - rawEntry.toNat % 4 := by
  have := rawEntry.isLt
  rw [entryOf, BitVec.toNat_sub, BitVec.toNat_ofNat]
  omega

theorem Regs.read_replicate_zero (r : RegIdx) : Regs.read (Vector.replicate 31 0#32) r = 0#32 := by
  simp [Regs.read]

/-- Settles O54: the fields of `afterReset`, the entry as arithmetic. -/
theorem resetValues : Obligations.ResetValues := by
  intro elf s t h
  obtain ⟨rfl, -⟩ := resetPort_ok h
  exact ⟨Regs.read_replicate_zero, rfl, rfl, entryOf_toNat elf.rawEntry, add_lit _ 4, rfl, rfl, rfl⟩

theorem loadSegment_load (m : Memory) {g : Segment} (hk : g.kind = 1) :
    loadSegment m g = m.setBytes g.addr g.bytes := if_pos hk

theorem loadSegment_other (m : Memory) {g : Segment} (hk : g.kind ≠ 1) : loadSegment m g = m := if_neg hk

theorem loadSegment_wf {m : Memory} (g : Segment) (h : m.wf = true) : (loadSegment m g).wf = true := by
  by_cases hk : g.kind = 1
  · rw [loadSegment_load m hk]
    exact Memory.wf_setBytes _ _ h
  · rwa [loadSegment_other m hk]

theorem loadImage_wf (segments : List Segment) : (loadImage segments).wf = true :=
  List.foldlRecOn segments loadSegment (motive := fun m => m.wf = true) rfl fun _ h g _ => loadSegment_wf g h

theorem afterReset_inv (elf : ElfInput) (s : State) : (s.afterReset elf).Inv := by
  refine ⟨loadImage_wf elf.segments, rfl, fun _ => ?_⟩
  have hpc : (entryOf elf.rawEntry).toNat % 4 = 0 := by
    rw [entryOf_toNat]
    omega
  refine ⟨hpc, ?_⟩
  show (entryOf elf.rawEntry + 4#32).toNat % 4 = 0
  rw [BitVec.toNat_add, BitVec.toNat_ofNat]
  omega

/-- Settles O47: the two constant states by computation, every accepted reset by `afterReset_inv`. -/
theorem invariantHoldsAtReset : Obligations.InvariantHoldsAtReset := by
  refine ⟨⟨rfl, rfl, fun _ => ⟨rfl, rfl⟩⟩, ⟨rfl, rfl, fun _ => ⟨rfl, rfl⟩⟩, fun elf s t h => ?_⟩
  obtain ⟨rfl, -⟩ := resetPort_ok h
  exact afterReset_inv elf s

/-! ## The image -/

/-- Loading segments leaves a byte alone that none of them covers. -/
theorem getByte_load_uncovered (segments : List Segment) (m : Memory) {a : Word}
    (h : ∀ g ∈ segments, g.kind = 1 → ∀ k < g.bytes.length, a ≠ g.addr + BitVec.ofNat 32 k) :
    (segments.foldl loadSegment m).getByte a = m.getByte a := by
  induction segments generalizing m with
  | nil => rfl
  | cons g rest ih =>
    rw [List.foldl_cons, ih _ fun g' hg' => h g' (List.mem_cons_of_mem g hg')]
    by_cases hk : g.kind = 1
    · rw [loadSegment_load m hk]
      exact Memory.getByte_setBytes_of_not_mem _ _ _ _ (h g List.mem_cons_self hk)
    · rw [loadSegment_other m hk]

/-- Settles O56: the last covering segment writes the byte, and the later segments leave it alone. -/
theorem imageInMemory : Obligations.ImageInMemory := by
  intro elf s t a h
  obtain ⟨rfl, hfits⟩ := resetPort_ok h
  refine ⟨fun hnone => getByte_load_uncovered elf.segments [] hnone, ?_⟩
  rintro before after g k hk hsegs hload rfl hlater
  have hg : g.fits = true := hfits g (by simp [hsegs])
  show (loadImage elf.segments).getByte _ = _
  rw [loadImage, hsegs, List.foldl_append, List.foldl_cons, getByte_load_uncovered _ _ hlater,
    loadSegment_load _ hload]
  exact Memory.getByte_setBytes _ _ _ k hk (Segment.length_le hg hload)

end Sys2Proof.Machine
end

section
/-! SUPPORT. The debug port (50_step_cycle.md R240; 20_memory.md R56). -/

namespace Sys2Proof.Machine

theorem debugIndex_of_lt {i : Nat} (h : i < 32) : debugIndex i = .ok (BitVec.ofNat 5 i) := if_pos h

theorem debugIndex_of_ge {i : Nat} (h : i ≥ 32) : debugIndex i = .error (.registerIndexOutOfRange i) :=
  if_neg (by omega)

theorem Memory.getHalf_setHalf (m : Memory) (a : Word) (v : BitVec 16) : (m.setHalf a v).getHalf a = v := by
  have hne : a ≠ a + 1#32 := by simp
  simp only [Memory.getHalf, Memory.getByte_setHalf, if_true, if_neg hne]
  exact (BitVec.extractLsb'_append_extractLsb'_eq_extractLsb' rfl).trans BitVec.extractLsb'_eq_self

/-- A word set at the port inside memory is read back (20_memory.md R56). -/
theorem debugWord_roundTrip (s : State) {a : Word} (v : Word) (h : accessFits a 4 = true) :
    ∃ t, debugSetWord s a v = .ok t ∧ debugGetWord t a = .ok v :=
  ⟨{ s with mem := s.mem.setWord a v }, if_pos h, by
    rw [debugGetWord, if_pos h, Memory.getWord_setWord]⟩

/-- A half-word set at the port inside memory is read back (20_memory.md R56). -/
theorem debugHalf_roundTrip (s : State) {a : Word} (v : BitVec 16) (h : accessFits a 2 = true) :
    ∃ t, debugSetHalf s a v = .ok t ∧ debugGetHalf t a = .ok v :=
  ⟨{ s with mem := s.mem.setHalf a v }, if_pos h, by
    rw [debugGetHalf, if_pos h, Memory.getHalf_setHalf]⟩

/-- Settles O60: the index check, then the access check, each on both sides of its bound. -/
theorem debugPortAccesses : Obligations.DebugPortAccesses := by
  intro s i v a h
  refine ⟨fun hi => ?_, fun hi => ?_, ?_, rfl, fun ha => ?_, fun ha => ?_, fun ha => ?_, fun ha => ?_⟩
  · simp [debugGetRegister, debugSetRegister, debugIndex_of_ge hi]
  · simp only [debugGetRegister, debugSetRegister, debugIndex_of_lt hi, true_and]
    exact ⟨_, rfl, oneReg_writeReg s _ v, fun _ => rfl⟩
  · rfl
  · have hf : ¬ accessFits a 4 = true := by rw [accessFits_iff]; omega
    exact ⟨if_neg hf, if_neg hf⟩
  · exact debugWord_roundTrip s v ((accessFits_iff a _).mpr (by omega))
  · have hf : ¬ accessFits a 2 = true := by rw [accessFits_iff]; omega
    exact ⟨if_neg hf, if_neg hf⟩
  · exact debugHalf_roundTrip s h ((accessFits_iff a _).mpr (by omega))

end Sys2Proof.Machine
end

section
/-! SUPPORT. The decoder reads back what the encoder writes (30_encoding.md R86 to R93). -/

namespace Sys2Proof

/-! ## The dispatch on a packed word -/

theorem decodeFields_packR_special (rs rt rd : RegIdx) (sa : BitVec 5) (funct : BitVec 6) :
    decodeFields (packR 0b000000#6 rs rt rd sa funct) = decodeSpecial (packR 0b000000#6 rs rt rd sa funct) := by
  simp only [decodeFields, opField_packR]

theorem decodeFields_packI_regimm (rs selector : RegIdx) (imm : Imm16) :
    decodeFields (packI 0b000001#6 rs selector imm) = decodeRegimm (packI 0b000001#6 rs selector imm) := by
  simp only [decodeFields, opField_packI]

/-- The tables read every word of the encoder back, in the row it was written by. -/
theorem decodeFields_encode (i : Instr) : decodeFields (encode i) = some i := by
  cases i with
  | j | jal => simp only [encode, decodeFields, opField_packJ, indexField_packJ]
  | bltz | bgez | bltzal | bgezal =>
    simp only [encode, decodeFields_packI_regimm, decodeRegimm, rtField_packI, rsField_packI, immField_packI]
  | beq | bne | blez | bgtz | addi | addiu | slti | sltiu | andi | ori | xori | lui
  | lb | lh | lwl | lw | lbu | lhu | lwr | sb | sh | swl | sw | swr =>
    simp only [encode, decodeFields, opField_packI, rsField_packI, rtField_packI, immField_packI]
  | mul =>
    simp only [encode, decodeFields, decodeSpecial2, opField_packR, functField_packR, rsField_packR,
      rtField_packR, rdField_packR]
  | sll | srl | sra | sllv | srlv | srav | jr | jalr | syscall | brk | mfhi | mthi | mflo | mtlo
  | mult | multu | div | divu | add | addu | sub | subu | and | or | xor | nor | slt | sltu | teq =>
    simp only [encode, decodeFields_packR_special, decodeSpecial, functField_packR, rsField_packR, rtField_packR,
      rdField_packR, saField_packR]

/-- The encoder leaves every field that must be 0 at 0 (30_encoding.md R89). -/
theorem encode_and_zeroFieldMask (i : Instr) : encode i &&& i.zeroFieldMask = 0#32 := by
  cases i with
  | blez | bgtz | lui =>
    simp only [encode, Instr.zeroFieldMask, packI_and, BitVec.ofNat_eq_ofNat, BitVec.and_zero, BitVec.zero_and]
    rfl
  | sll | srl | sra | sllv | srlv | srav | jr | mthi | mtlo | jalr | mfhi | mflo | mult | multu | div | divu
  | add | addu | sub | subu | and | or | xor | nor | slt | sltu | mul =>
    simp only [encode, Instr.zeroFieldMask, packR_and, BitVec.ofNat_eq_ofNat, BitVec.and_zero, BitVec.zero_and]
    rfl
  | syscall | brk | teq | bltz | bgez | bltzal | bgezal | j | jal | beq | bne
  | addi | addiu | slti | sltiu | andi | ori | xori
  | lb | lh | lwl | lw | lbu | lhu | lwr | sb | sh | swl | sw | swr => exact BitVec.and_zero

/-- The word of an instruction the machine has decodes to it, strict or not. -/
theorem decode_encode {c : Config} {i : Instr} (h : i.WellFormed c = true) : decode c (encode i) = .instr i :=
  decode_eq_instr.mpr ⟨decodeFields_encode i, h, by simp [fieldsAccepted, encode_and_zeroFieldMask]⟩

end Sys2Proof
end

section
/-! SUPPORT. A word or half-word in memory by its bytes, and a store that the next fetch reads (20_memory.md). -/

namespace Sys2Proof.Machine

/-! ## Bytes of words and half-words -/

/-- Two neighbouring bytes of a word, put together. -/
theorem byteOfWord_append (v : Word) (n : Nat) :
    byteOfWord v (n + 1) ++ byteOfWord v n = BitVec.ofNat 16 (v.toNat / 2 ^ (8 * n)) := by
  rw [byteOfWord, byteOfWord, BitVec.extractLsb'_append_extractLsb'_eq_extractLsb' (by omega)]
  apply BitVec.eq_of_toNat_eq
  simp [BitVec.extractLsb'_toNat, Nat.shiftRight_eq_div_pow]

/-- A byte of a half-word as a number. -/
theorem byteOfHalf_eq (v : BitVec 16) (i : Nat) :
    v.extractLsb' (8 * i) 8 = BitVec.ofNat 8 (v.toNat / 2 ^ (8 * i)) := by
  apply BitVec.eq_of_toNat_eq
  simp [BitVec.extractLsb'_toNat, Nat.shiftRight_eq_div_pow]

/-! ## Memory after a word is set -/

theorem Memory.getByte_setWord_byte (m : Memory) (a v : Word) {k : Nat} (hk : k < 4) :
    (m.setWord a v).getByte (a + BitVec.ofNat 32 k) = byteOfWord v k := by
  refine (Memory.getByte_setBytes m a _ k (by simpa using hk) (by simp)).trans ?_
  interval_cases k <;> rfl

theorem Memory.getHalf_setWord (m : Memory) (a v : Word) {k : Nat} (hk : k < 3) :
    (m.setWord a v).getHalf (a + BitVec.ofNat 32 k) = BitVec.ofNat 16 (v.toNat / 2 ^ (8 * k)) := by
  have hnext : a + BitVec.ofNat 32 k + 1#32 = a + BitVec.ofNat 32 (k + 1) := by
    rw [BitVec.add_assoc, ← BitVec.ofNat_add]
  rw [Memory.getHalf, hnext, Memory.getByte_setWord_byte m a v (by omega : k + 1 < 4),
    Memory.getByte_setWord_byte m a v (by omega : k < 4), byteOfWord_append]

/-- Settles O22: the sum of the model's words as arithmetic. -/
theorem effectiveAddressWraps : Obligations.EffectiveAddressWraps :=
  fun s rs imm => add_sext16 (s.readReg rs) imm

/-- Settles O23: a half-word and a word are lists of bytes stored from `a` on. -/
theorem memoryReadsWhatWasWritten : Obligations.MemoryReadsWhatWasWritten := by
  intro m a b v h x
  refine ⟨⟨?_, fun hb => ?_⟩, ⟨Memory.getHalf_setHalf m a h, ?_, ?_, fun hb hb1 => ?_⟩,
    Memory.getWord_setWord m a v, ?_, Memory.getHalf_setWord m a v (k := 2) (by omega), fun k hk => ?_, fun hb => ?_⟩
  · rw [Memory.getByte_setByte, if_pos rfl]
  · rw [Memory.getByte_setByte, if_neg hb]
  · rw [Memory.getByte_setHalf, if_neg (by simp), if_pos rfl]
    simpa using byteOfHalf_eq h 0
  · rw [Memory.getByte_setHalf, if_pos rfl]
    exact byteOfHalf_eq h 1
  · rw [Memory.getByte_setHalf, if_neg hb1, if_neg hb]
  · simpa using Memory.getHalf_setWord m a v (k := 0) (by omega)
  · rw [Memory.getByte_setWord_byte m a v hk, byteOfWord_eq]
  · exact Memory.getByte_setBytes_of_not_mem m a b _ hb

/-! ## A step that nothing interrupts -/

/-- No instruction touches the breakpoint set, the pending slot or the parameters. -/
theorem exec_sameControl {i : Instr} {s t : State} (h : exec i s = .next t) : SameControl s t := by
  obtain ⟨u, hu, ht⟩ := (exec_effect h).exists_update
  rw [ht]
  exact hu.sameControl

theorem State.rearm_of_none {s : State} (h : s.pendingRearm = none) : s.rearm = s := by
  simp [State.rearm, h]

/-- With no breakpoint at `pc` and none pending, a step is the execution of the instruction at `pc`, failed or not. -/
theorem step_eq_exec {s u : State} {i : Instr} (ha : s.Active) (hb : s.pc ∉ s.breakpoints)
    (hr : s.pendingRearm = none) (hp : s.pc.toNat + 4 ≤ 2 ^ 32)
    (hd : decode s.config (s.mem.getWord s.pc) = .instr i) (hx : exec i s = .next u) : step s = .next u := by
  rw [step_of_decode ha hb hp hd hx]
  by_cases hf : u.HasFailed
  · exact finishStep_failed hf
  · obtain ⟨-, hpend, -⟩ := exec_sameControl hx
    rw [finishStep_rearm hf, State.rearm_of_none (hpend.trans hr)]

/-- An aligned SW stores the register's word and goes on (43_load_store.md R147). -/
theorem exec_sw_aligned {s : State} {rt rs : RegIdx} {imm : Imm16} (h : (effectiveAddress s rs imm).toNat % 4 = 0) :
    exec (.sw rt rs imm) s =
      .next (s.setMem (s.mem.setWord (effectiveAddress s rs imm) (s.readReg rt))).advance :=
  if_pos ((isAligned_iff _ 4).mpr h)

/-- Settles O30: the first step is the SW, whose word the second one fetches; `decode_encode` gives back `j`. -/
theorem storeIsSeenByTheNextFetch : Obligations.StoreIsSeenByTheNextFetch := by
  intro s rt rs imm j ha hb hb' hr hp hn hd hea hv hj
  have hx := exec_sw_aligned (s := s) (rt := rt) (rs := rs) (imm := imm) (by rw [hea]; exact hn)
  rw [hea, hv] at hx
  have hw : (s.mem.setWord s.npc (encode j)).getWord s.npc = encode j := Memory.getWord_setWord _ _ _
  refine ⟨_, step_eq_exec ha hb hr hp hd hx, rfl, hw, fun u hu => ?_⟩
  refine step_eq_exec (i := j) ha hb' hr ?_ ?_ hu
  · show s.npc.toNat + 4 ≤ 2 ^ 32
    have := s.npc.isLt
    omega
  · show decode s.config ((s.mem.setWord s.npc (encode j)).getWord s.npc) = .instr j
    rw [hw]
    exact decode_encode hj

end Sys2Proof.Machine
end

section
/-! SUPPORT. The word of a decoded instruction, and the words that decode to none (30_encoding.md R86 to R96). -/

namespace Sys2Proof

/-! ## A word with the fields of a mask cleared -/

theorem and_not_packR (w : Word) (rs rt rd : RegIdx) (sa : BitVec 5) :
    w &&& ~~~packR 0#6 rs rt rd sa 0#6 =
      packR (opField w) (rsField w &&& ~~~rs) (rtField w &&& ~~~rt) (rdField w &&& ~~~rd) (saField w &&& ~~~sa)
        (functField w) := by
  simp [not_packR, and_packR, and_ones6]

theorem and_not_packI (w : Word) (rs rt : RegIdx) :
    w &&& ~~~packI 0#6 rs rt 0#16 = packI (opField w) (rsField w &&& ~~~rs) (rtField w &&& ~~~rt) (immField w) := by
  simp [not_packI, and_packI, and_ones6, and_ones16]

theorem packI_of_opField {w : Word} {op : BitVec 6} (h : opField w = op) :
    packI op (rsField w) (rtField w) (immField w) = w := by
  rw [← h, packI_fields]

theorem packJ_of_opField {w : Word} {op : BitVec 6} (h : opField w = op) : packJ op (indexField w) = w := by
  rw [← h, packJ_fields]

/-! ## The word of a decoded instruction

Each row of a table fixes `op` and the selecting field of the word; the encoder writes these and the operands back,
and 0 in the fields the row does not read. -/

/-- The word of `i` is `w` with the fields cleared that `i` does not use. -/
def EncodesUsedBits (w : Word) (i : Instr) : Prop :=
  encode i = w &&& ~~~(i.zeroFieldMask ||| i.codeFieldMask)

theorem encodesUsedBits_of_decodeSpecial {w : Word} {i : Instr} (hop : opField w = 0b000000#6)
    (h : decodeSpecial w = some i) : EncodesUsedBits w i := by
  unfold decodeSpecial at h
  split at h
  case h_30 => cases h
  all_goals
    rename_i hfunct
    cases h
    simp [EncodesUsedBits, encode, Instr.zeroFieldMask, Instr.codeFieldMask, and_not_packR, and_ones5, hop, hfunct]

theorem encodesUsedBits_of_decodeSpecial2 {w : Word} {i : Instr} (hop : opField w = 0b011100#6)
    (h : decodeSpecial2 w = some i) : EncodesUsedBits w i := by
  unfold decodeSpecial2 at h
  split at h
  case h_1 hfunct =>
    cases h
    simp [EncodesUsedBits, encode, Instr.zeroFieldMask, Instr.codeFieldMask, and_not_packR, and_ones5, hop, hfunct]
  case h_2 => cases h

theorem encodesUsedBits_of_decodeRegimm {w : Word} {i : Instr} (hop : opField w = 0b000001#6)
    (h : decodeRegimm w = some i) : EncodesUsedBits w i := by
  have hw := packI_of_opField hop
  unfold decodeRegimm at h
  split at h
  case h_5 => cases h
  all_goals
    rename_i hselector
    rw [hselector] at hw
    cases h
    simp [EncodesUsedBits, encode, Instr.zeroFieldMask, Instr.codeFieldMask, and_ones32, hw]

theorem encodesUsedBits_of_decodeFields {w : Word} {i : Instr} (h : decodeFields w = some i) :
    EncodesUsedBits w i := by
  unfold decodeFields at h
  split at h
  case h_1 hop => exact encodesUsedBits_of_decodeSpecial hop h
  case h_2 hop => exact encodesUsedBits_of_decodeSpecial2 hop h
  case h_3 hop => exact encodesUsedBits_of_decodeRegimm hop h
  case h_30 => cases h
  all_goals
    rename_i hop
    cases h
    simp [EncodesUsedBits, encode, Instr.zeroFieldMask, Instr.codeFieldMask, and_not_packI, and_ones5, and_ones32,
      packI_of_opField, packJ_of_opField, hop]

/-- A strict decoder has found the checked fields 0 (30_encoding.md R89). -/
theorem fieldsAccepted_iff {c : Config} {i : Instr} {w : Word} :
    fieldsAccepted c i w = true ↔ (c.decodeStrictZeroFields = true → w &&& i.zeroFieldMask = 0#32) := by
  cases hz : c.decodeStrictZeroFields <;> simp [fieldsAccepted, hz]

/-! ## When a word decodes to an instruction, and when to none -/

/-- A word is `Unknown` when no row fits it, or the parameters take the row or the word out. -/
theorem decode_eq_unknown_iff {c : Config} {w : Word} :
    decode c w = .unknown w ↔
      ∀ i, decodeFields w = some i → i.WellFormed c = true → ¬ fieldsAccepted c i w = true := by
  have hor : decode c w = .unknown w ↔ ∀ i, decode c w ≠ .instr i := by
    cases h : decode c w with
    | instr i => simp
    | unknown v => simp [decode_eq_unknown h]
  simp [hor, decode_eq_instr]

theorem decode_encode_of_not_wellFormed {c : Config} {i : Instr} (h : ¬ i.WellFormed c = true) :
    decode c (encode i) = .unknown (encode i) := by
  refine decode_eq_unknown_iff.mpr fun j hj hwf => absurd hwf ?_
  rw [decodeFields_encode] at hj
  cases hj
  exact h

/-- An instruction that no parameter takes away or checks is read from every word the tables give it. -/
theorem decode_of_decodeFields (c : Config) {w : Word} {i : Instr} (h : decodeFields w = some i)
    (hnamed : i.isUnnamed = false) (hmask : i.zeroFieldMask = 0#32) : decode c w = .instr i :=
  decode_eq_instr.mpr ⟨h, by simp [Instr.WellFormed, hnamed], by simp [fieldsAccepted, hmask]⟩

theorem decode_lenient_eq_unknown_iff {c : Config} (hu : c.includeUnnamedOps = true)
    (hz : c.decodeStrictZeroFields = false) {w : Word} : decode c w = .unknown w ↔ decodeFields w = none := by
  rw [decode_lenient hu hz]
  cases decodeFields w <;> simp

/-! ## The words the tables leave over (30_encoding.md R90, R91, R96) -/

theorem opField_toNat (w : Word) : (opField w).toNat = w.toNat / 2 ^ 26 := by
  have := w.isLt
  simp only [opField, BitVec.extractLsb'_toNat, Nat.shiftRight_eq_div_pow]
  omega

theorem functField_toNat (w : Word) : (functField w).toNat = w.toNat % 64 := by
  simp [functField, BitVec.extractLsb'_toNat]

theorem rtField_toNat (w : Word) : (rtField w).toNat = w.toNat / 2 ^ 16 % 32 := by
  simp [rtField, BitVec.extractLsb'_toNat, Nat.shiftRight_eq_div_pow]

/-- The opcodes of R96 no table holds. -/
def unusedOpcodes : List Nat :=
  [0x10, 0x11, 0x12, 0x13, 0x14, 0x15, 0x16, 0x17, 0x18, 0x19, 0x1A, 0x1B, 0x1D, 0x1E, 0x1F, 0x27, 0x2C, 0x2D, 0x2F,
    0x30, 0x31, 0x32, 0x33, 0x34, 0x35, 0x36, 0x37, 0x38, 0x39, 0x3A, 0x3B, 0x3C, 0x3D, 0x3E, 0x3F]

/-- The values of `funct` that R90 gives no row. -/
def unusedFuncts : List Nat :=
  [0x01, 0x05, 0x0A, 0x0B, 0x0E, 0x0F, 0x14, 0x15, 0x16, 0x17, 0x1C, 0x1D, 0x1E, 0x1F, 0x28, 0x29, 0x2C, 0x2D, 0x2E,
    0x2F, 0x30, 0x31, 0x32, 0x33, 0x35, 0x36, 0x37, 0x38, 0x39, 0x3A, 0x3B, 0x3C, 0x3D, 0x3E, 0x3F]

/-- The opcodes R88 and R93 give a table or a row. -/
def usedOpcodes : List (BitVec 6) :=
  [0b000000, 0b011100, 0b000001, 0b000010, 0b000011, 0b000100, 0b000101, 0b000110, 0b000111, 0b001000, 0b001001,
    0b001010, 0b001011, 0b001100, 0b001101, 0b001110, 0b001111, 0b100000, 0b100001, 0b100010, 0b100011, 0b100100,
    0b100101, 0b100110, 0b101000, 0b101001, 0b101010, 0b101011, 0b101110]

/-- The values of `funct` that R90 gives a row. -/
def usedFuncts : List (BitVec 6) :=
  [0b000000, 0b000010, 0b000011, 0b000100, 0b000110, 0b000111, 0b001000, 0b001001, 0b001100, 0b001101, 0b010000,
    0b010001, 0b010010, 0b010011, 0b011000, 0b011001, 0b011010, 0b011011, 0b100000, 0b100001, 0b100010, 0b100011,
    0b100100, 0b100101, 0b100110, 0b100111, 0b101010, 0b101011, 0b110100]

theorem toNat_mem_unusedOpcodes : ∀ op : BitVec 6, op ∉ usedOpcodes → op.toNat ∈ unusedOpcodes := by decide

theorem toNat_mem_unusedFuncts : ∀ funct : BitVec 6, funct ∉ usedFuncts → funct.toNat ∈ unusedFuncts := by decide

theorem decodeSpecial_eq_none_iff (w : Word) : decodeSpecial w = none ↔ (functField w).toNat ∈ unusedFuncts := by
  unfold decodeSpecial
  split
  case h_30 =>
    have hfunct : (functField w).toNat ∈ unusedFuncts := toNat_mem_unusedFuncts _ (by simp_all [usedFuncts])
    simp [hfunct]
  all_goals
    rename_i hfunct
    simp [hfunct, unusedFuncts]

theorem decodeSpecial2_eq_none_iff (w : Word) : decodeSpecial2 w = none ↔ (functField w).toNat ≠ 0x02 := by
  unfold decodeSpecial2
  split
  case h_1 hfunct => simp [hfunct]
  case h_2 hfunct => simpa [← BitVec.toNat_inj] using hfunct

theorem decodeRegimm_eq_none_iff (w : Word) :
    decodeRegimm w = none ↔ (rtField w).toNat ∉ [0x00, 0x01, 0x10, 0x11] := by
  unfold decodeRegimm
  split
  case h_5 => simp_all [← BitVec.toNat_inj]
  all_goals
    rename_i hselector
    simp [hselector]

theorem decodeFields_eq_none_iff (w : Word) :
    decodeFields w = none ↔
      (opField w).toNat ∈ unusedOpcodes ∨
      ((opField w).toNat = 0x00 ∧ decodeSpecial w = none) ∨
      ((opField w).toNat = 0x1C ∧ decodeSpecial2 w = none) ∨
      ((opField w).toNat = 0x01 ∧ decodeRegimm w = none) := by
  unfold decodeFields
  split
  case h_30 =>
    have hop : (opField w).toNat ∈ unusedOpcodes := toNat_mem_unusedOpcodes _ (by simp_all [usedOpcodes])
    simp [hop]
  all_goals
    rename_i hop
    simp [hop, unusedOpcodes]

/-! ## The obligations -/

/-- Settles O1: the tables read the encoder's word back, and its unused fields are 0. -/
theorem decodeEncodeRoundTrip : Obligations.DecodeEncodeRoundTrip :=
  fun _ _ h => decode_encode h

/-- Settles O2: the word's bits, row by row of the tables. -/
theorem decodedWordIsItsEncoding : Obligations.DecodedWordIsItsEncoding := by
  intro c w i h
  obtain ⟨hfields, hwf, haccepted⟩ := decode_eq_instr.mp h
  exact ⟨hwf, encodesUsedBits_of_decodeFields hfields, fieldsAccepted_iff.mp haccepted⟩

/-- Settles O3: each table's rows leave over the values R96 lists. -/
theorem unknownWordsAreExactlyThese : Obligations.UnknownWordsAreExactlyThese := by
  intro c w hu hz
  refine ⟨?_, fun s => rfl⟩
  rw [decode_lenient_eq_unknown_iff hu hz, decodeFields_eq_none_iff, decodeSpecial_eq_none_iff,
    decodeSpecial2_eq_none_iff, decodeRegimm_eq_none_iff, opField_toNat, functField_toNat, rtField_toNat]
  exact Iff.rfl

/-- Settles O5: an absent instruction, a field that is not 0, and the three instructions nothing is checked of. -/
theorem decoderParameters : Obligations.DecoderParameters := by
  refine ⟨fun c i hc hi => decode_encode_of_not_wellFormed (by simp [Instr.WellFormed, hc, hi]), ?_, ?_⟩
  · intro c c' w i h hstrict hmask
    obtain ⟨hfields, -, -⟩ := decode_eq_instr.mp h
    refine decode_eq_unknown_iff.mpr fun j hj _ haccepted => hmask ?_
    cases hfields.symm.trans hj
    exact fieldsAccepted_iff.mp haccepted hstrict
  · intro c a b d e rs rt
    refine ⟨decode_of_decodeFields c ?_ rfl rfl, decode_of_decodeFields c ?_ rfl rfl,
      decode_of_decodeFields c ?_ rfl rfl⟩ <;>
    simp [decodeFields_packR_special, decodeSpecial]

/-- Settles O4: the word is the encoding of `SLL $0,$0,0`, and a write to register 0 leaves `next` alone. -/
theorem zeroWordIsTheNop : Obligations.ZeroWordIsTheNop := by
  have hwf : ∀ c : Config, (Instr.sll 0#5 0#5 0#5).WellFormed c = true := by
    simp [Instr.WellFormed, Instr.isUnnamed]
  exact ⟨fun c => decode_encode (hwf c), fun s => Machine.proceed_only s⟩

/-- Settles O6: the decoder, run on each word. -/
theorem wordsOfTheSpecDecode : Obligations.WordsOfTheSpecDecode := by
  unfold Obligations.WordsOfTheSpecDecode
  decide

end Sys2Proof
end

section
/-! SUPPORT. Addition and subtraction (40_arith_overflow.md): the trapping three, the wrapping three, and the overflow
test by sign bits. -/

namespace Sys2Proof.Machine

/-! ## Words that the tables read -/

/-- With `op` = 0, `funct` picks the row (30_encoding.md R90). -/
theorem readsAs_packR_special {rs rt rd : RegIdx} {sa : BitVec 5} {funct : BitVec 6} {i : Instr}
    (h : decodeSpecial (packR 0b000000#6 rs rt rd sa funct) = some i) :
    ReadsAs (packR 0b000000#6 rs rt rd sa funct) i :=
  readsAs_of_decodeFields ((decodeFields_packR_special rs rt rd sa funct).trans h)

section Instructions
variable (s : State) (rd rs rt : RegIdx) (sa : BitVec 5) (imm : Imm16)

theorem readsAs_add : ReadsAs (packR 0b000000#6 rs rt rd sa 0b100000#6) (.add rd rs rt) :=
  readsAs_packR_special (by simp [decodeSpecial])

theorem readsAs_addu : ReadsAs (packR 0b000000#6 rs rt rd sa 0b100001#6) (.addu rd rs rt) :=
  readsAs_packR_special (by simp [decodeSpecial])

theorem readsAs_sub : ReadsAs (packR 0b000000#6 rs rt rd sa 0b100010#6) (.sub rd rs rt) :=
  readsAs_packR_special (by simp [decodeSpecial])

theorem readsAs_subu : ReadsAs (packR 0b000000#6 rs rt rd sa 0b100011#6) (.subu rd rs rt) :=
  readsAs_packR_special (by simp [decodeSpecial])

theorem readsAs_addi : ReadsAs (packI 0b001000#6 rs rt imm) (.addi rt rs imm) :=
  readsAs_of_decodeFields (by simp [decodeFields])

theorem readsAs_addiu : ReadsAs (packI 0b001001#6 rs rt imm) (.addiu rt rs imm) :=
  readsAs_of_decodeFields (by simp [decodeFields])

/-! ## The instructions as arithmetic -/

theorem exec_add : exec (.add rd rs rt) s =
    writeOrOverflow .overflowADD rd (signed (s.readReg rs) + signed (s.readReg rt)) s := rfl

theorem exec_addi : exec (.addi rt rs imm) s =
    writeOrOverflow .overflowADDI rt (signed (s.readReg rs) + imm.toInt) s :=
  congrArg (fun x => writeOrOverflow .overflowADDI rt (signed (s.readReg rs) + x) s) (signed_sext16 imm)

theorem exec_sub : exec (.sub rd rs rt) s =
    writeOrOverflow .overflowSUB rd (signed (s.readReg rs) - signed (s.readReg rt)) s := rfl

theorem exec_addu : exec (.addu rd rs rt) s =
    proceed (s.writeReg rd (u32 ((s.readReg rs).toNat + (s.readReg rt).toNat))) :=
  congrArg (fun v => proceed (s.writeReg rd v)) (add_eq_u32 _ _)

theorem exec_addiu : exec (.addiu rt rs imm) s =
    proceed (s.writeReg rt (u32 ((s.readReg rs).toNat + imm.toInt))) :=
  congrArg (fun v => proceed (s.writeReg rt v)) (add_sext16 _ imm)

theorem exec_subu : exec (.subu rd rs rt) s =
    proceed (s.writeReg rd (u32 ((s.readReg rs).toNat - (s.readReg rt).toNat))) :=
  congrArg (fun v => proceed (s.writeReg rd v)) (sub_eq_u32 _ _)

end Instructions

/-- An instruction that ends in `writeOrOverflow` writes the exact result, or traps when it does not fit (R110). -/
theorem writes_or_traps {i : Instr} {s : State} {cause : TrapCause} {rd : RegIdx} {result : Int}
    (h : exec i s = writeOrOverflow cause rd result s) (z : Int) (hz : z = result) :
    (-(2 ^ 31) ≤ z ∧ z ≤ 2 ^ 31 - 1 → ∃ t, exec i s = .next t ∧ RegisterWritten s t rd (u32 z)) ∧
    (¬ (-(2 ^ 31) ≤ z ∧ z ≤ 2 ^ 31 - 1) → ∃ t, exec i s = .next t ∧ TrapTaken s t cause) := by
  subst hz
  rw [h]
  exact ⟨fun hfits => writeOrOverflow_fits hfits cause rd s, fun hover => writeOrOverflow_traps hover cause rd s⟩

/-- Settles O15: each of the three ends in `writeOrOverflow` of its exact result. -/
theorem trappingArithmetic : Obligations.TrappingArithmetic := fun s rd rs rt sa imm =>
  ⟨⟨readsAs_add rd rs rt sa, writes_or_traps (exec_add s rd rs rt)⟩,
   ⟨readsAs_addi rs rt imm, writes_or_traps (exec_addi s rs rt imm)⟩,
   ⟨readsAs_sub rd rs rt sa, writes_or_traps (exec_sub s rd rs rt)⟩⟩

/-- Settles O16: each of the three writes its sum or difference modulo 2^32 and goes on. -/
theorem wrappingArithmetic : Obligations.WrappingArithmetic := by
  intro s rd rs rt sa imm
  rw [exec_addu, exec_addiu, exec_subu]
  exact ⟨⟨readsAs_addu rd rs rt sa, proceed_writeReg s rd _⟩, ⟨readsAs_addiu rs rt imm, proceed_writeReg s rt _⟩,
    ⟨readsAs_subu rd rs rt sa, proceed_writeReg s rd _⟩⟩

/-! ## The overflow test by sign bits -/

/-- Integers equal modulo 2^32 are the same word. -/
theorem u32_congr {y z : Int} (h : y % 2 ^ 32 = z % 2 ^ 32) : u32 y = u32 z :=
  eq_u32_of_emod ((toNat_u32 y).trans h)

theorem u32_signed_add (a b : Word) : u32 (signed a + signed b) = u32 (a.toNat + b.toNat) := by
  apply u32_congr
  rw [Int.add_emod, signed_emod, signed_emod]

theorem u32_signed_sub (a b : Word) : u32 (signed a - signed b) = u32 (a.toNat - b.toNat) := by
  apply u32_congr
  rw [Int.sub_emod, signed_emod, signed_emod]

theorem fitsSigned_eq_false_iff (z : Int) : fitsSigned z = false ↔ ¬ (-(2 ^ 31) ≤ z ∧ z ≤ 2 ^ 31 - 1) := by
  simp [fitsSigned]

theorem signed_range (w : Word) : -(2 ^ 31) ≤ signed w ∧ signed w ≤ 2 ^ 31 - 1 :=
  ⟨BitVec.le_toInt w, Int.le_sub_one_of_lt BitVec.toInt_lt⟩

/-- The sign bit is that of the signed value (00_scope.md R12). -/
theorem msb_eq_decide_signed (w : Word) : w.msb = decide (signed w < 0) := BitVec.msb_eq_toInt

theorem msb_eq_msb_iff (a b : Word) : a.msb = b.msb ↔ (signed a < 0 ↔ signed b < 0) := by
  rw [msb_eq_decide_signed, msb_eq_decide_signed, decide_eq_decide]

theorem msb_u32 (z : Int) : (u32 z).msb = decide (2 ^ 31 ≤ z % 2 ^ 32) := by
  have := toNat_u32 z
  rw [BitVec.msb_eq_decide, decide_eq_decide]
  omega

/-- Of two operands' sum or difference: when the exact result has the sign of `a`, it does not fit exactly when the
wrapped result's sign bit is not that of `a`. -/
theorem fitsSigned_eq_false_iff_msb_ne {z : Int} {a : Word} (hz : -(2 ^ 32) ≤ z ∧ z < 2 ^ 32)
    (hsign : z < 0 ↔ signed a < 0) : fitsSigned z = false ↔ (u32 z).msb ≠ a.msb := by
  rw [fitsSigned_eq_false_iff, msb_u32, msb_eq_decide_signed, ne_eq, decide_eq_decide, ← hsign]
  omega

/-- A sum overflows only when the operands have one sign, and then that is the sign of the exact sum. -/
theorem fitsSigned_add_eq_false_iff (a b : Word) :
    fitsSigned (signed a + signed b) = false ↔ a.msb = b.msb ∧ (u32 (signed a + signed b)).msb ≠ a.msb := by
  have ha := signed_range a
  have hb := signed_range b
  rw [msb_eq_msb_iff a b]
  by_cases hsign : signed a < 0 ↔ signed b < 0
  · rw [fitsSigned_eq_false_iff_msb_ne (by omega) (by omega : _ ↔ signed a < 0)]
    exact (and_iff_right hsign).symm
  · rw [fitsSigned_eq_false_iff]
    exact iff_of_false (by omega) fun h => hsign h.1

/-- A difference overflows only when the operands have different signs, and then the exact difference has the sign of
the first. -/
theorem fitsSigned_sub_eq_false_iff (a b : Word) :
    fitsSigned (signed a - signed b) = false ↔ a.msb ≠ b.msb ∧ (u32 (signed a - signed b)).msb ≠ a.msb := by
  have ha := signed_range a
  have hb := signed_range b
  rw [ne_eq, msb_eq_msb_iff a b]
  by_cases hsign : signed a < 0 ↔ signed b < 0
  · rw [fitsSigned_eq_false_iff]
    exact iff_of_false (by omega) fun h => h.1 hsign
  · rw [fitsSigned_eq_false_iff_msb_ne (by omega) (by omega : _ ↔ signed a < 0)]
    exact (and_iff_right hsign).symm

/-- Settles O17: the exact results decide by signs, and the unsigned operands give the same words. -/
theorem overflowIsASignChange : Obligations.OverflowIsASignChange := by
  intro a b
  rw [← u32_signed_add, ← u32_signed_sub]
  exact ⟨fitsSigned_add_eq_false_iff a b, fitsSigned_sub_eq_false_iff a b, rfl, rfl⟩

end Sys2Proof.Machine
end

section
/-! SUPPORT. Branches and jumps (41_branch_jump.md): where `pc` and `npc` go after every instruction, and the whole
effect of the twelve control transfers. -/

namespace Sys2Proof.Machine

/-! ## The delay slot -/

/-- An instruction that goes on moves `pc` to the old `npc`, whatever its target (50_step_cycle.md R224). -/
theorem Effect.pc_eq_npc {i : Instr} {s t : State} (h : Effect i s t) (hn : t.lastStop = none) : t.pc = s.npc := by
  cases h with
  | goesOn target hu => exact hu.npc_eq
  | exits | breaks | fails => cases hn

/-- The answer `r` in state `s` either stops or leaves the next word in `npc` (50_step_cycle.md R225). -/
def AdvancesOrStops (s : State) (r : Result) : Prop :=
  ∀ t, r = .next t → t.lastStop = none → t.npc = s.npc + 4#32

section
variable {s u : State}

theorem advancesOrStops_proceed (h : u.npc = s.npc) : AdvancesOrStops s (proceed u) := by
  rintro _ ⟨⟩ _
  exact congrArg (· + 4#32) h

theorem advancesOrStops_raiseTrap (cause : TrapCause) : AdvancesOrStops s (raiseTrap cause s) :=
  advancesOrStops_proceed (State.report_npc s s.pc cause)

theorem advancesOrStops_stop (r : RunState) (e : Stop) : AdvancesOrStops s (.next (u.stop r e)) := by
  rintro _ ⟨⟩ ⟨⟩

theorem advancesOrStops_ite {p : Prop} [Decidable p] {a b : Result} (ha : AdvancesOrStops s a)
    (hb : AdvancesOrStops s b) : AdvancesOrStops s (if p then a else b) := by
  split
  · exact ha
  · exact hb

theorem advancesOrStops_divideByZero : AdvancesOrStops s (divideByZero s) := by
  unfold divideByZero
  split
  · exact advancesOrStops_stop _ _
  · exact advancesOrStops_proceed rfl

theorem advancesOrStops_divideOverflow : AdvancesOrStops s (divideOverflow s) := by
  unfold divideOverflow
  split
  · exact advancesOrStops_stop _ _
  · exact advancesOrStops_proceed rfl

theorem advancesOrStops_printString : AdvancesOrStops s (servicePrintString s) := by
  unfold servicePrintString
  dsimp only
  split
  · exact advancesOrStops_proceed rfl
  · exact advancesOrStops_stop _ _

theorem advancesOrStops_readInt : AdvancesOrStops s (serviceReadInt s) := by
  unfold serviceReadInt
  split
  · exact advancesOrStops_proceed (State.drawInt_npc s)
  · exact advancesOrStops_stop _ _

theorem advancesOrStops_readString : AdvancesOrStops s (serviceReadString s) :=
  advancesOrStops_ite (advancesOrStops_stop _ _)
    (advancesOrStops_ite (advancesOrStops_stop _ _) (advancesOrStops_proceed (State.drawLine_npc s)))

theorem advancesOrStops_syscall : AdvancesOrStops s (execSyscall s) :=
  advancesOrStops_ite (advancesOrStops_proceed rfl) <|
  advancesOrStops_ite advancesOrStops_printString <|
  advancesOrStops_ite advancesOrStops_readInt <|
  advancesOrStops_ite advancesOrStops_readString <|
  advancesOrStops_ite (advancesOrStops_stop _ _) (advancesOrStops_stop _ _)

end

/-- Only a branch or jump makes `npc` anything but the next word (41_branch_jump.md R121). -/
theorem exec_advancesOrStops {i : Instr} (h : i.isControlTransfer = false) (s : State) :
    AdvancesOrStops s (exec i s) := by
  cases i with
  | beq | bne | blez | bgtz | bltz | bgez | bltzal | bgezal | j | jal | jr | jalr => cases h
  | addu | addiu | subu | mfhi | mflo | and | or | xor | nor | andi | ori | xori | lui
  | sll | srl | sra | sllv | srlv | srav | slt | sltu | slti | sltiu
  | lb | lbu | lwl | lwr | sb | swl | swr | mult | multu | mthi | mtlo => exact advancesOrStops_proceed rfl
  | add | addi | sub | lw | lh | lhu | sw | sh =>
    exact advancesOrStops_ite (advancesOrStops_proceed rfl) (advancesOrStops_raiseTrap _)
  | mul rd rs rt =>
    refine advancesOrStops_proceed ?_
    split <;> rfl
  | div =>
    exact advancesOrStops_ite advancesOrStops_divideByZero
      (advancesOrStops_ite advancesOrStops_divideOverflow (advancesOrStops_proceed rfl))
  | divu => exact advancesOrStops_ite advancesOrStops_divideByZero (advancesOrStops_proceed rfl)
  | teq => exact advancesOrStops_ite (advancesOrStops_raiseTrap _) (advancesOrStops_proceed rfl)
  | brk => exact advancesOrStops_stop _ _
  | syscall => exact advancesOrStops_syscall

/-- Settles O14: `pc` by cases on the effect, `npc` by cases on the instructions that are no transfer. -/
theorem delaySlotAlwaysRunsNext : Obligations.DelaySlotAlwaysRunsNext := by
  intro i s t h hn
  refine ⟨(exec_effect h).pc_eq_npc hn, fun hi => ?_⟩
  rw [exec_advancesOrStops hi s t h hn]
  exact add_lit s.npc 4

/-! ## Words that the tables read -/

/-- An encoder's word is read back (30_encoding.md R86). -/
theorem readsAs_encode (i : Instr) : ReadsAs (encode i) i := readsAs_of_decodeFields (decodeFields_encode i)

section Words
variable (rs rt rd : RegIdx) (sa : BitVec 5) (imm : Imm16)

theorem readsAs_blez : ReadsAs (packI 0b000110#6 rs rt imm) (.blez rs imm) :=
  readsAs_of_decodeFields (by simp [decodeFields])

theorem readsAs_bgtz : ReadsAs (packI 0b000111#6 rs rt imm) (.bgtz rs imm) :=
  readsAs_of_decodeFields (by simp [decodeFields])

theorem readsAs_jr : ReadsAs (packR 0b000000#6 rs rt rd sa 0b001000#6) (.jr rs) :=
  readsAs_packR_special (by simp [decodeSpecial])

theorem readsAs_jalr : ReadsAs (packR 0b000000#6 rs rt rd sa 0b001001#6) (.jalr rd rs) :=
  readsAs_packR_special (by simp [decodeSpecial])

end Words

/-! ## Branches -/

section Branches
variable {i : Instr} {s : State} {imm : Imm16} {cond : Bool} {p : Prop} [Decidable p]

/-- An instruction that ends in `branchIf` branches exactly when the condition `p` of its rule holds (R121). -/
theorem branches_iff (hi : exec i s = branchIf cond imm s) (hp : cond = true ↔ p) :
    ∃ t, exec i s = .next t ∧ OnlyTransferred s t (u32 (s.npc.toNat + if p then 4 * imm.toInt else 4)) := by
  rw [hi, ← if_congr hp rfl rfl]
  exact branchIf_only cond imm s

/-- The same after the link is written (R126, R127). -/
theorem links_and_branches_iff (hi : exec i s = branchIf cond imm s.link) (hp : cond = true ↔ p) :
    ∃ t, exec i s = .next t ∧
      LinkedAndTransferred s t 31#5 (u32 (s.npc.toNat + if p then 4 * imm.toInt else 4)) := by
  rw [hi, ← if_congr hp rfl rfl]
  exact branchIf_link cond imm s

end Branches

/-- Settles O18: each of the six ends in `branchIf` of its condition. -/
theorem conditionalBranches : Obligations.ConditionalBranches := fun _ rs rt imm =>
  ⟨⟨readsAs_encode (.beq rs rt imm), branches_iff rfl beq_iff_eq⟩,
   ⟨readsAs_encode (.bne rs rt imm), branches_iff rfl bne_iff_ne⟩,
   ⟨readsAs_blez rs rt imm, branches_iff rfl decide_eq_true_iff⟩,
   ⟨readsAs_bgtz rs rt imm, branches_iff rfl decide_eq_true_iff⟩,
   ⟨readsAs_encode (.bltz rs imm), branches_iff rfl decide_eq_true_iff⟩,
   ⟨readsAs_encode (.bgez rs imm), branches_iff rfl decide_eq_true_iff⟩⟩

/-- The link value as a number (00_scope.md R18). -/
theorem linkValue_eq (s : State) : linkValue s = u32 (s.pc.toNat + 8) := add_lit s.pc 8

/-- Settles O19: both end in `branchIf` after the link, and the tested register is read from the linked state. -/
theorem linkingBranches : Obligations.LinkingBranches := by
  intro s rs imm v hv
  have hread : s.link.readReg rs = v := by rw [hv, State.readReg_link, linkValue_eq]
  subst hread
  exact ⟨⟨readsAs_encode (.bltzal rs imm), links_and_branches_iff rfl decide_eq_true_iff⟩,
    ⟨readsAs_encode (.bgezal rs imm), links_and_branches_iff rfl decide_eq_true_iff⟩⟩

/-! ## Jumps -/

/-- A target that is a multiple of 4, or any target under `as_is`, is taken as it is (R130). -/
theorem registerTarget_unchanged {c : Config} {v : Word} (h : v.toNat % 4 = 0 ∨ c.jrMisaligned = .asIs) :
    registerTarget c v = .ok v := by
  by_cases hv : v.toNat % 4 = 0
  · exact registerTarget_aligned c hv
  · rw [registerTarget_misaligned c hv, h.resolve_left hv]

section RegisterTargets
variable {s : State} {rs : RegIdx}

/-- JR and JALR to an accepted target; JALR has read `rs` before it writes the link (R131). -/
theorem registerJumps_ok {target : Word} (h : registerTarget s.config (s.readReg rs) = .ok target) (rd : RegIdx) :
    (∃ t, exec (.jr rs) s = .next t ∧ OnlyTransferred s t target) ∧
    ∃ t, exec (.jalr rd rs) s = .next t ∧ LinkedAndTransferred s t rd target := by
  simp only [exec, execJr, execJalr, h]
  exact ⟨⟨_, rfl, advanceTo_only s target⟩, _, rfl, link_advanceTo s rd target⟩

/-- JR and JALR to a target that is not accepted fail, and no link is written (R130, R131). -/
theorem registerJumps_error {k : EngineError} (h : registerTarget s.config (s.readReg rs) = .error k) (rd : RegIdx) :
    exec (.jr rs) s = .next (s.failedWith k) ∧ exec (.jalr rd rs) s = .next (s.failedWith k) := by
  simp only [exec, execJr, execJalr, h, raiseEngineError_eq, and_self]

end RegisterTargets

/-- Settles O21: by cases on what the policy makes of the target. -/
theorem registerJumps : Obligations.RegisterJumps := by
  rintro s rd rs rt x sa _ rfl
  refine ⟨readsAs_jr rs rt x sa, readsAs_jalr rs rt rd sa, fun h => ?accepted, fun hv hp => ?error,
    fun hv hp => ?truncated⟩
  case accepted => exact registerJumps_ok (registerTarget_unchanged h) rd
  case error => exact registerJumps_error (by rw [registerTarget_misaligned _ hv, hp]) rd
  case truncated => exact registerJumps_ok (by rw [registerTarget_misaligned _ hv, hp]) rd

/-- Settles O20: the model's word for the target is the number the statement gives. -/
theorem indexJumps : Obligations.IndexJumps := by
  intro s index target h
  obtain rfl := BitVec.eq_of_toNat_eq (h.trans (jumpRegion_toNat s.npc index).symm)
  exact ⟨⟨readsAs_encode (.j index), _, rfl, advanceTo_only s _⟩,
    ⟨readsAs_encode (.jal index), _, rfl, link_advanceTo s 31#5 _⟩⟩

end Sys2Proof.Machine
end

section
/-! SUPPORT. Aligned loads and stores (43_load_store.md): what memory holds as a number, what a register stores as
bytes, and the alignment test that ends in `next` or in a trap. -/

namespace Sys2Proof.Machine

/-! ## Memory and the widenings as arithmetic -/

/-- The little-endian half-word as a number (20_memory.md R52). -/
theorem Memory.getHalf_toNat (m : Memory) (a : Word) :
    (m.getHalf a).toNat = (m.getByte a).toNat + 2 ^ 8 * (m.getByte (a + 1#32)).toNat := by
  rw [Memory.getHalf, BitVec.toNat_append, ← Nat.shiftLeft_add_eq_or_of_lt (m.getByte a).isLt, Nat.shiftLeft_eq]
  omega

/-- A word whose value is a given number is `u32` of it. -/
theorem eq_u32_of_toNat_eq {w : Word} {n : Nat} (h : w.toNat = n) : w = u32 n := by
  rw [← h, u32, BitVec.ofInt_natCast, BitVec.ofNat_toNat, BitVec.setWidth_eq]

/-- The little-endian word as a number, its low half first (20_memory.md R52). -/
theorem Memory.getWord_eq_u32 (m : Memory) (a : Word) :
    m.getWord a = u32 ((m.getHalf a).toNat + 2 ^ 16 * (m.getByte (a + 2#32)).toNat +
      2 ^ 24 * (m.getByte (a + 3#32)).toNat) := by
  have hword : (m.getWord a).toNat = (m.getHalf a).toNat + 2 ^ 16 * (m.getByte (a + 2#32)).toNat +
      2 ^ 24 * (m.getByte (a + 3#32)).toNat := by
    rw [Memory.getHalf_toNat]
    exact wordOfBytes_toNat _ _ _ _
  exact_mod_cast eq_u32_of_toNat_eq hword

theorem zext16_eq_u32 (v : BitVec 16) : zext16 v = u32 v.toNat :=
  eq_u32_of_toNat_eq (BitVec.toNat_setWidth_of_le (by decide))

theorem zext8_eq_u32 (v : Byte) : zext8 v = u32 v.toNat :=
  eq_u32_of_toNat_eq (BitVec.toNat_setWidth_of_le (by decide))

/-- A half-word from 2^15 up stands for itself less 2^16 (43_load_store.md R143). -/
theorem sext16_eq_u32 (v : BitVec 16) : sext16 v = u32 (if v.toNat < 2 ^ 15 then v.toNat else v.toNat - 2 ^ 16) := by
  apply eq_u32_of_emod
  have hcond := BitVec.toInt_eq_toNat_cond v
  rw [toInt16_emod]
  split at hcond <;> split <;> omega

/-- A byte from 0x80 up gets 24 ones above it (43_load_store.md R145). -/
theorem sext8_eq_u32 (v : Byte) : sext8 v = u32 (if v.toNat < 0x80 then v.toNat else v.toNat + 0xFFFFFF00) := by
  have hcond := BitVec.toInt_eq_toNat_cond v
  refine (u32_congr ?_ : u32 v.toInt = _)
  split at hcond <;> split <;> omega

/-! ## What a store writes -/

/-- Byte 0 of a word as a number. -/
theorem lowByte_eq (v : Word) : v.extractLsb' 0 8 = BitVec.ofNat 8 v.toNat := by
  simpa [byteOfWord] using byteOfWord_eq v 0

theorem bytesOfWord_eq (v : Word) :
    [byteOfWord v 0, byteOfWord v 1, byteOfWord v 2, byteOfWord v 3] =
      [BitVec.ofNat 8 v.toNat, BitVec.ofNat 8 (v.toNat / 2 ^ 8), BitVec.ofNat 8 (v.toNat / 2 ^ 16),
        BitVec.ofNat 8 (v.toNat / 2 ^ 24)] := by
  simp [byteOfWord_eq]

/-- The bytes of the low half of a word are its bytes 0 and 1 (43_load_store.md R148). -/
theorem bytesOfLowHalf_eq (v : Word) :
    [(v.extractLsb' 0 16).extractLsb' 0 8, (v.extractLsb' 0 16).extractLsb' 8 8] =
      [BitVec.ofNat 8 v.toNat, BitVec.ofNat 8 (v.toNat / 2 ^ 8)] := by
  have hlow : (v.extractLsb' 0 16).extractLsb' 0 8 = byteOfWord v 0 :=
    BitVec.extractLsb'_extractLsb'_of_le (by decide)
  have hhigh : (v.extractLsb' 0 16).extractLsb' 8 8 = byteOfWord v 1 :=
    BitVec.extractLsb'_extractLsb'_of_le (by decide)
  simp [hlow, hhigh, byteOfWord_eq]

/-! ## The alignment test -/

section Accesses
variable {i : Instr} {s u : State} {rt : RegIdx} {ea : Word} {n : Nat} {cause : TrapCause} {v w : Word}
  {bs cs : List Byte}

/-- An instruction that tests alignment goes on from `u`, or traps (20_memory.md R58). -/
theorem proceeds_or_traps {P : State → Prop}
    (hi : exec i s = if isAligned ea n then proceed u else raiseTrap cause s) (hu : ∃ t, proceed u = .next t ∧ P t) :
    (ea.toNat % n = 0 → ∃ t, exec i s = .next t ∧ P t) ∧
    (ea.toNat % n ≠ 0 → ∃ t, exec i s = .next t ∧ TrapTaken s t cause) := by
  rw [hi]
  refine ⟨fun haligned => ?_, fun hmisaligned => ?_⟩
  · rwa [if_pos ((isAligned_iff ea n).mpr haligned)]
  · rw [if_neg (mt (isAligned_iff ea n).mp hmisaligned)]
    exact raiseTrap_taken cause s

/-- A load writes the value `w` of its rule, or traps and writes nothing (43_load_store.md R141, R143, R144). -/
theorem loads_or_traps (hi : exec i s = if isAligned ea n then proceed (s.writeReg rt v) else raiseTrap cause s)
    (hv : v = w) :
    (ea.toNat % n = 0 → ∃ t, exec i s = .next t ∧ RegisterWritten s t rt w) ∧
    (ea.toNat % n ≠ 0 → ∃ t, exec i s = .next t ∧ TrapTaken s t cause) := by
  subst hv
  exact proceeds_or_traps hi (proceed_writeReg s rt v)

/-- A store writes the bytes `cs` of its rule, or traps and stores nothing (43_load_store.md R147, R148). -/
theorem stores_or_traps
    (hi : exec i s = if isAligned ea n then proceed (s.setMem (s.mem.setBytes ea bs)) else raiseTrap cause s)
    (hbs : bs = cs) (hl : bs.length ≤ 2 ^ 32) :
    (ea.toNat % n = 0 → ∃ t, exec i s = .next t ∧ MemoryStored s t ea cs) ∧
    (ea.toNat % n ≠ 0 → ∃ t, exec i s = .next t ∧ TrapTaken s t cause) := by
  subst hbs
  exact proceeds_or_traps hi (proceed_setBytes s ea bs hl)

/-- A load that tests nothing: a byte is always aligned (R145, R146). -/
theorem loads_byte (hi : exec i s = proceed (s.writeReg rt v)) (hv : v = w) :
    ∃ t, exec i s = .next t ∧ RegisterWritten s t rt w := by
  subst hv
  rw [hi]
  exact proceed_writeReg s rt v

end Accesses

/-- Settles O24: each load writes what memory holds at the effective address, widened, as a number. -/
theorem loads : Obligations.Loads := by
  rintro s rt rs imm ea b h rfl rfl rfl
  rw [← Memory.getHalf_toNat]
  exact ⟨⟨readsAs_encode (.lw rt rs imm), loads_or_traps rfl (Memory.getWord_eq_u32 _ _)⟩,
    ⟨readsAs_encode (.lh rt rs imm), loads_or_traps rfl (sext16_eq_u32 _)⟩,
    ⟨readsAs_encode (.lhu rt rs imm), loads_or_traps rfl (zext16_eq_u32 _)⟩,
    ⟨readsAs_encode (.lb rt rs imm), loads_byte rfl (sext8_eq_u32 _)⟩,
    ⟨readsAs_encode (.lbu rt rs imm), loads_byte rfl (zext8_eq_u32 _)⟩⟩

/-- SB stores one byte and tests nothing (43_load_store.md R149). -/
theorem exec_sb (s : State) (rt rs : RegIdx) (imm : Imm16) : exec (.sb rt rs imm) s =
    proceed (s.setMem (s.mem.setBytes (effectiveAddress s rs imm) [BitVec.ofNat 8 (s.readReg rt).toNat])) :=
  congrArg (fun b => proceed (s.setMem (s.mem.setByte (effectiveAddress s rs imm) b))) (lowByte_eq _)

/-- Settles O25: each store writes a list of bytes from the effective address on, the low bytes of the register. -/
theorem stores : Obligations.Stores := by
  rintro s rt rs imm ea v rfl rfl
  rw [exec_sb]
  exact ⟨⟨readsAs_encode (.sw rt rs imm), stores_or_traps rfl (bytesOfWord_eq _) (by simp)⟩,
    ⟨readsAs_encode (.sh rt rs imm), stores_or_traps rfl (bytesOfLowHalf_eq _) (by simp)⟩,
    ⟨readsAs_encode (.sb rt rs imm), proceed_setBytes s _ _ (by simp)⟩⟩

end Sys2Proof.Machine
end

section
/-! SUPPORT. Partial-word loads and stores (44_unaligned.md): the four instructions by the merge table R156, which bytes
of the word at `u` each one of a pair moves, and the two pairs of R161. -/

namespace Sys2Proof.Machine

/-! ## A word by its bytes -/

/-- The word with the bytes `B 0` to `B 3`, lowest first (00_scope.md R14). -/
def wordOf (B : Nat → Byte) : Word := wordOfBytes (B 0) (B 1) (B 2) (B 3)

/-- The bytes of memory from `a` on. -/
def Memory.bytesFrom (m : Memory) (a : Word) (i : Nat) : Byte := m.getByte (a + BitVec.ofNat 32 i)

theorem Memory.getWord_eq_wordOf (m : Memory) (a : Word) : m.getWord a = wordOf (m.bytesFrom a) := by
  simp [Memory.getWord, wordOf, Memory.bytesFrom]

theorem byteOfWord_wordOf (B : Nat → Byte) {n : Nat} (hn : n < 4) : byteOfWord (wordOf B) n = B n := by
  ext i hi
  rw [getElem_byteOfWord _ _ _ hi, BitVec.getLsbD_eq_getElem (by omega), wordOf, getElem_wordOfBytes]
  interval_cases n <;> grind

theorem wordOf_congr {B C : Nat → Byte} (h : ∀ n < 4, B n = C n) : wordOf B = wordOf C := by
  rw [wordOf, wordOf, h 0 (by decide), h 1 (by decide), h 2 (by decide), h 3 (by decide)]

/-- The bytes of a word as numbers, in the form the statements give them. -/
theorem byteOfWord_eq_fun (w : Word) : byteOfWord w = fun i => BitVec.ofNat 8 (w.toNat / 2 ^ (8 * i)) :=
  funext (byteOfWord_eq w)

/-! ## The columns of the merge table, each as one formula for byte `n` -/

section Columns
variable {k : Nat} (hk : k < 4) (T M : Nat → Byte)
include hk

theorem lwlRow_eq_wordOf : lwlRow k T M = wordOf fun n => if 3 - k ≤ n then M (n + k - 3) else T n := by
  interval_cases k <;> rfl

theorem lwrRow_eq_wordOf : lwrRow k T M = wordOf fun n => if n ≤ 3 - k then M (n + k) else T n := by
  interval_cases k <;> rfl

theorem swlRow_eq_map : swlRow k T M = (List.range 4).map fun n => if n ≤ k then T (n + 3 - k) else M n := by
  interval_cases k <;> rfl

theorem swrRow_eq_map : swrRow k T M = (List.range 4).map fun n => if k ≤ n then T (n - k) else M n := by
  interval_cases k <;> rfl

end Columns

/-! ## The four instructions by the table -/

theorem byteInWord_lt (ea : Word) : byteInWord ea < 4 := Nat.mod_lt _ (by decide)

theorem eq_alignedBase {ea a : Word} (h : a.toNat = ea.toNat - ea.toNat % 4) : a = alignedBase ea :=
  BitVec.eq_of_toNat_eq (h.trans (alignedBase_toNat ea).symm)

section Instructions
variable {s : State} {rs : RegIdx} {imm : Imm16} {ea : Word} (h : effectiveAddress s rs imm = ea) (rt : RegIdx)
include h

theorem exec_lwl : exec (.lwl rt rs imm) s = proceed (s.writeReg rt
    (lwlRow (byteInWord ea) (byteOfWord (s.readReg rt)) (s.mem.bytesFrom (alignedBase ea)))) := by
  rw [← mergeLwl_eq_row (byteInWord_lt ea)]
  simp only [exec, execLwl, h, Memory.getWord_eq_wordOf, wordOf]

theorem exec_lwr : exec (.lwr rt rs imm) s = proceed (s.writeReg rt
    (lwrRow (byteInWord ea) (byteOfWord (s.readReg rt)) (s.mem.bytesFrom (alignedBase ea)))) := by
  rw [← mergeLwr_eq_row (byteInWord_lt ea)]
  simp only [exec, execLwr, h, Memory.getWord_eq_wordOf, wordOf]

theorem exec_swl : exec (.swl rt rs imm) s = proceed (s.setMem (s.mem.setBytes (alignedBase ea)
    (swlRow (byteInWord ea) (byteOfWord (s.readReg rt)) (s.mem.bytesFrom (alignedBase ea))))) := by
  rw [← mergeSwl_eq_row (byteInWord_lt ea)]
  simp only [exec, execSwl, h, Memory.setWord, Memory.getWord_eq_wordOf, wordOf]

theorem exec_swr : exec (.swr rt rs imm) s = proceed (s.setMem (s.mem.setBytes (alignedBase ea)
    (swrRow (byteInWord ea) (byteOfWord (s.readReg rt)) (s.mem.bytesFrom (alignedBase ea))))) := by
  rw [← mergeSwr_eq_row (byteInWord_lt ea)]
  simp only [exec, execSwr, h, Memory.setWord, Memory.getWord_eq_wordOf, wordOf]

end Instructions

/-- Settles O26: each load writes its row of the table. -/
theorem partialLoads : Obligations.PartialLoads := by
  rintro s rt rs imm ea a rfl ha
  obtain rfl := eq_alignedBase ha
  rw [exec_lwl rfl, exec_lwr rfl, ← byteOfWord_eq_fun]
  exact ⟨⟨readsAs_encode (.lwl rt rs imm), proceed_writeReg s rt _⟩,
    ⟨readsAs_encode (.lwr rt rs imm), proceed_writeReg s rt _⟩⟩

/-- A row of a store column is four bytes, stored from the aligned address on. -/
theorem proceed_setBytes_range (s : State) (a : Word) {bs : List Byte} {B : Nat → Byte}
    (hbs : bs = (List.range 4).map B) :
    ∃ t, proceed (s.setMem (s.mem.setBytes a bs)) = .next t ∧ MemoryStored s t a bs :=
  proceed_setBytes s a bs (by simp [hbs])

/-- Settles O27: each store writes its row of the table from the aligned address on. -/
theorem partialStores : Obligations.PartialStores := by
  rintro s rt rs imm ea a rfl ha
  obtain rfl := eq_alignedBase ha
  rw [exec_swl rfl, exec_swr rfl, ← byteOfWord_eq_fun]
  exact ⟨⟨readsAs_encode (.swl rt rs imm), proceed_setBytes_range s _ (swlRow_eq_map (byteInWord_lt _) _ _)⟩,
    ⟨readsAs_encode (.swr rt rs imm), proceed_setBytes_range s _ (swrRow_eq_map (byteInWord_lt _) _ _)⟩⟩

/-! ## The bytes of the word at `u` that each instruction of a pair moves (R161) -/

/-- Byte `n` of the word at `u` lies in the aligned word of `u + 3`: the left instruction moves it. -/
def leftMoves (u : Word) (n : Nat) : Bool := decide (3 - byteInWord (u + 3#32) ≤ n)

/-- Byte `n` of the word at `u` lies in the aligned word of `u`: the right instruction moves it. -/
def rightMoves (u : Word) (n : Nat) : Bool := decide (n ≤ 3 - byteInWord u)

theorem byteInWord_add_three (u : Word) : byteInWord (u + 3#32) = (byteInWord u + 3) % 4 := by
  simp only [byteInWord, BitVec.toNat_add, BitVec.toNat_ofNat]
  omega

/-- Between them the two instructions move every byte. -/
theorem leftMoves_or_rightMoves (u : Word) (n : Nat) : leftMoves u n = true ∨ rightMoves u n = true := by
  have hk := byteInWord_lt u
  simp only [leftMoves, rightMoves, byteInWord_add_three, decide_eq_true_eq]
  omega

theorem alignedBase_add_byteInWord (ea : Word) : (alignedBase ea).toNat + byteInWord ea = ea.toNat := by
  rw [alignedBase_toNat, byteInWord]
  omega

/-- Byte `n` of the word at `u` is byte `n + k` of the right instruction's aligned word. -/
theorem alignedBase_add (u : Word) (n : Nat) :
    alignedBase u + BitVec.ofNat 32 (n + byteInWord u) = u + BitVec.ofNat 32 n := by
  have hbase := alignedBase_add_byteInWord u
  apply BitVec.eq_of_toNat_eq
  simp only [BitVec.toNat_add, BitVec.toNat_ofNat]
  omega

/-- It is byte `n + k - 3` of the left instruction's, from the first byte that one moves. -/
theorem alignedBase_add_three_add (u : Word) {n : Nat} (hn : 3 - byteInWord (u + 3#32) ≤ n) :
    alignedBase (u + 3#32) + BitVec.ofNat 32 (n + byteInWord (u + 3#32) - 3) = u + BitVec.ofNat 32 n := by
  have hbase := alignedBase_add_byteInWord (u + 3#32)
  apply BitVec.eq_of_toNat_eq
  simp only [BitVec.toNat_add, BitVec.toNat_ofNat] at hbase ⊢
  omega

/-! ## The pair of loads -/

/-- The bytes `n` of `x[rt]` with `p n` are loaded from the word at `u`, the others are kept. -/
def PartLoaded (s t : State) (rt : RegIdx) (u : Word) (p : Nat → Bool) : Prop :=
  OneReg s t rt (wordOf fun n => if p n then s.mem.bytesFrom u n else byteOfWord (s.readReg rt) n) ∧ SameMem s t

theorem lwlRow_eq_leftMoves (u : Word) (T : Nat → Byte) (m : Memory) :
    lwlRow (byteInWord (u + 3#32)) T (m.bytesFrom (alignedBase (u + 3#32))) =
      wordOf fun n => if leftMoves u n then m.bytesFrom u n else T n := by
  rw [lwlRow_eq_wordOf (byteInWord_lt _)]
  refine wordOf_congr fun n _ => if_ctx_congr decide_eq_true_iff.symm (fun hn => ?_) fun _ => rfl
  exact congrArg m.getByte (alignedBase_add_three_add u (decide_eq_true_iff.mp hn))

theorem lwrRow_eq_rightMoves (u : Word) (T : Nat → Byte) (m : Memory) :
    lwrRow (byteInWord u) T (m.bytesFrom (alignedBase u)) =
      wordOf fun n => if rightMoves u n then m.bytesFrom u n else T n := by
  rw [lwrRow_eq_wordOf (byteInWord_lt _)]
  refine wordOf_congr fun n _ => if_ctx_congr decide_eq_true_iff.symm (fun _ => ?_) fun _ => rfl
  exact congrArg m.getByte (alignedBase_add u n)

theorem effectiveAddress_congr {s t : State} {rs : RegIdx} (h : t.readReg rs = s.readReg rs) (imm : Imm16) :
    effectiveAddress t rs imm = effectiveAddress s rs imm := by
  rw [effectiveAddress, h, effectiveAddress]

section Loads
variable {s : State} {rt rs : RegIdx} {imm : Imm16} {u : Word} {p q : Nat → Bool}

theorem proceed_partLoaded (s : State) (rt : RegIdx) (u : Word) (p : Nat → Bool) :
    ∃ t, proceed (s.writeReg rt
      (wordOf fun n => if p n then s.mem.bytesFrom u n else byteOfWord (s.readReg rt) n)) = .next t ∧
      PartLoaded s t rt u p := by
  obtain ⟨t, ht, hreg, -, hmem, -⟩ := proceed_writeReg s rt _
  exact ⟨t, ht, hreg, hmem⟩

theorem lwl_partLoaded (h : effectiveAddress s rs imm = u + 3#32) :
    ∃ t, exec (.lwl rt rs imm) s = .next t ∧ PartLoaded s t rt u (leftMoves u) := by
  rw [exec_lwl h, lwlRow_eq_leftMoves]
  exact proceed_partLoaded s rt u _

theorem lwr_partLoaded (h : effectiveAddress s rs imm = u) :
    ∃ t, exec (.lwr rt rs imm) s = .next t ∧ PartLoaded s t rt u (rightMoves u) := by
  rw [exec_lwr h, lwrRow_eq_rightMoves]
  exact proceed_partLoaded s rt u _

/-- Two part loads that between them cover the word leave all of it in `x[rt]`, whatever it held. -/
theorem PartLoaded.whole {t v : State} (hp : PartLoaded s t rt u p) (hq : PartLoaded t v rt u q)
    (hcover : ∀ n, p n = true ∨ q n = true) : OneReg s v rt (s.mem.getWord u) ∧ SameMem s v := by
  obtain ⟨hregp, hmemp⟩ := hp
  obtain ⟨hregq, hmemq⟩ := hq
  refine ⟨fun r => ?_, fun a => (hmemq a).trans (hmemp a)⟩
  rw [hregq r]
  split
  · next hr =>
    rw [Memory.getWord_eq_wordOf, hregp rt, if_pos ⟨rfl, hr.2⟩]
    refine wordOf_congr fun n hn => ?_
    rw [byteOfWord_wordOf _ hn]
    have hmem : t.mem.bytesFrom u n = s.mem.bytesFrom u n := hmemp _
    rcases hcover n with h | h <;> simp [h, hmem]
  · next hr => rw [hregp r, if_neg hr]

/-- The pair of loads in either order: the second instruction finds the base register as it was. -/
theorem loadPair_whole {i j : Instr} (hrt : rt ≠ rs) (hi : ∃ t, exec i s = .next t ∧ PartLoaded s t rt u p)
    (hj : ∀ t, t.readReg rs = s.readReg rs → ∃ v, exec j t = .next v ∧ PartLoaded t v rt u q)
    (hcover : ∀ n, p n = true ∨ q n = true) :
    ∃ t v, exec i s = .next t ∧ exec j t = .next v ∧ OneReg s v rt (s.mem.getWord u) ∧ SameMem s v := by
  obtain ⟨t, ht, hp⟩ := hi
  have hbase : t.readReg rs = s.readReg rs := (hp.1 rs).trans (if_neg fun h => hrt h.1.symm)
  obtain ⟨v, hv, hq⟩ := hj t hbase
  exact ⟨t, v, ht, hv, hp.whole hq hcover⟩

end Loads

/-- Settles O29: each load of the pair moves its part of the word, and the two parts cover it. -/
theorem unalignedLoadPair : Obligations.UnalignedLoadPair := by
  intro s rt rs hi lo u hrt hlo hhi _
  exact ⟨loadPair_whole hrt (lwl_partLoaded hhi)
      (fun t ht => lwr_partLoaded ((effectiveAddress_congr ht lo).trans hlo)) (leftMoves_or_rightMoves u),
    loadPair_whole hrt (lwr_partLoaded hlo)
      (fun t ht => lwl_partLoaded ((effectiveAddress_congr ht hi).trans hhi))
      (fun n => (leftMoves_or_rightMoves u n).symm)⟩

/-! ## The pair of stores -/

/-- How far `b` lies above `a`, modulo 2^32. -/
def distance (a b : Word) : Nat := (b - a).toNat

theorem distance_lt (a b : Word) : distance a b < 2 ^ 32 := (b - a).isLt

theorem distance_add_ofNat (a : Word) {n : Nat} (hn : n < 2 ^ 32) : distance a (a + BitVec.ofNat 32 n) = n := by
  rw [distance, BitVec.add_comm, BitVec.add_sub_cancel, BitVec.toNat_ofNat, Nat.mod_eq_of_lt hn]

theorem add_ofNat_distance (a b : Word) : a + BitVec.ofNat 32 (distance a b) = b := by
  rw [distance, BitVec.ofNat_toNat, BitVec.setWidth_eq, BitVec.add_comm, BitVec.sub_add_cancel]

/-- The distance from `u` by the distance from the right instruction's aligned word. -/
theorem distance_right (u b : Word) :
    distance u b = (distance (alignedBase u) b + 2 ^ 32 - byteInWord u) % 2 ^ 32 := by
  have hbase := alignedBase_add_byteInWord u
  simp only [distance, BitVec.toNat_sub]
  omega

/-- The same for the left instruction. -/
theorem distance_left (u b : Word) :
    distance u b = (distance (alignedBase (u + 3#32)) b + 3 - byteInWord (u + 3#32)) % 2 ^ 32 := by
  have hbase := alignedBase_add_byteInWord (u + 3#32)
  have hk := byteInWord_lt (u + 3#32)
  simp only [distance, BitVec.toNat_sub, BitVec.toNat_add, BitVec.toNat_ofNat] at hbase ⊢
  omega

/-- Stored bytes, read at every address by its distance from the first. -/
theorem bytesStored_map_iff {s t : State} {a : Word} {B : Nat → Byte} {l : Nat} (hl : l ≤ 2 ^ 32) :
    BytesStored s t a ((List.range l).map B) ↔
      ∀ b, t.mem.getByte b = if distance a b < l then B (distance a b) else s.mem.getByte b := by
  have hdist : ∀ k < l, distance a (a + BitVec.ofNat 32 k) = k := fun k hk => distance_add_ofNat a (by omega)
  simp only [BytesStored, List.length_map, List.length_range, List.getElem_map, List.getElem_range]
  refine ⟨fun ⟨hin, hout⟩ b => ?_, fun h => ⟨fun k hk => ?_, fun b hb => ?_⟩⟩
  · split
    · next hb => rw [← hin _ hb, add_ofNat_distance]
    · next hb => exact hout b fun k hk he => hb (by rwa [he, hdist k hk])
  · rw [h, hdist k hk, if_pos hk]
  · rw [h, if_neg fun hk => hb _ hk (add_ofNat_distance a b).symm]

/-- The bytes `n` of `T` with `p n` are stored into the word at `u`; no other byte and no register changes. -/
def PartStored (s t : State) (u : Word) (T : Nat → Byte) (p : Nat → Bool) : Prop :=
  (∀ b, t.mem.getByte b = if distance u b < 4 ∧ p (distance u b) then T (distance u b) else s.mem.getByte b) ∧
  SameRegs s t

section Stores
variable {s : State} {rt rs : RegIdx} {imm : Imm16} {a u : Word} {T : Nat → Byte} {p q : Nat → Bool}

/-- A row that puts byte `f n` of `T` at `a + n` where `c n` holds, and what memory has there elsewhere, is a part
store into the word at `u` when the places and the bytes agree. -/
theorem proceed_partStored {c : Nat → Prop} [DecidablePred c] {f : Nat → Nat} {bs : List Byte}
    (hbs : bs = (List.range 4).map fun n => if c n then T (f n) else s.mem.bytesFrom a n)
    (h : ∀ b, (distance a b < 4 ∧ c (distance a b) ↔ distance u b < 4 ∧ p (distance u b)) ∧
      (distance a b < 4 → c (distance a b) → f (distance a b) = distance u b)) :
    ∃ t, proceed (s.setMem (s.mem.setBytes a bs)) = .next t ∧ PartStored s t u T p := by
  obtain ⟨t, ht, hbytes, hregs, -⟩ := proceed_setBytes_range s a hbs
  refine ⟨t, ht, fun b => ?_, hregs⟩
  obtain ⟨hplaces, hbyte⟩ := h b
  rw [hbs, bytesStored_map_iff (by decide)] at hbytes
  simp only [hbytes b, Memory.bytesFrom, add_ofNat_distance, ← hplaces, ite_and]
  exact if_ctx_congr Iff.rfl
    (fun hb => if_ctx_congr Iff.rfl (fun hc => congrArg T (hbyte hb hc)) fun _ => rfl) fun _ => rfl

theorem swl_partStored (h : effectiveAddress s rs imm = u + 3#32) (hT : byteOfWord (s.readReg rt) = T) :
    ∃ t, exec (.swl rt rs imm) s = .next t ∧ PartStored s t u T (leftMoves u) := by
  have hk := byteInWord_lt (u + 3#32)
  rw [exec_swl h, hT]
  refine proceed_partStored (swlRow_eq_map hk _ _) fun b => ?_
  have hdist := distance_left u b
  have hlt := distance_lt (alignedBase (u + 3#32)) b
  rw [leftMoves, decide_eq_true_eq]
  exact ⟨by omega, by omega⟩

theorem swr_partStored (h : effectiveAddress s rs imm = u) (hT : byteOfWord (s.readReg rt) = T) :
    ∃ t, exec (.swr rt rs imm) s = .next t ∧ PartStored s t u T (rightMoves u) := by
  have hk := byteInWord_lt u
  rw [exec_swr h, hT]
  refine proceed_partStored (swrRow_eq_map hk _ _) fun b => ?_
  have hdist := distance_right u b
  have hlt := distance_lt (alignedBase u) b
  rw [rightMoves, decide_eq_true_eq]
  exact ⟨by omega, by omega⟩

/-- Two part stores that between them cover the word at `u` store all of it, and nothing else. -/
theorem PartStored.whole {t v : State} (hp : PartStored s t u T p) (hq : PartStored t v u T q)
    (hcover : ∀ n, p n = true ∨ q n = true) : BytesStored s v u ((List.range 4).map T) ∧ SameRegs s v := by
  obtain ⟨hmemp, hregp⟩ := hp
  obtain ⟨hmemq, hregq⟩ := hq
  refine ⟨(bytesStored_map_iff (by decide)).mpr fun b => ?_, fun r => (hregq r).trans (hregp r)⟩
  rw [hmemq b, hmemp b]
  rcases hcover (distance u b) with h | h <;> grind

/-- The pair of stores in either order: the second instruction finds every register as it was. -/
theorem storePair_whole {i j : Instr} (hi : ∃ t, exec i s = .next t ∧ PartStored s t u T p)
    (hj : ∀ t, SameRegs s t → ∃ v, exec j t = .next v ∧ PartStored t v u T q)
    (hcover : ∀ n, p n = true ∨ q n = true) :
    ∃ t v, exec i s = .next t ∧ exec j t = .next v ∧
      BytesStored s v u ((List.range 4).map T) ∧ SameRegs s v := by
  obtain ⟨t, ht, hp⟩ := hi
  obtain ⟨v, hv, hq⟩ := hj t hp.2
  exact ⟨t, v, ht, hv, hp.whole hq hcover⟩

end Stores

/-- Settles O28: each store of the pair moves its part of the word, and the two parts cover it. -/
theorem unalignedStorePair : Obligations.UnalignedStorePair := by
  intro s rt rs hi lo u hlo hhi _
  rw [← byteOfWord_eq_fun]
  exact ⟨storePair_whole (swl_partStored hhi rfl)
      (fun t ht => swr_partStored ((effectiveAddress_congr (ht rs) lo).trans hlo) (by rw [ht rt]))
      (leftMoves_or_rightMoves u),
    storePair_whole (swr_partStored hlo rfl)
      (fun t ht => swl_partStored ((effectiveAddress_congr (ht rs) hi).trans hhi) (by rw [ht rt]))
      (fun n => (leftMoves_or_rightMoves u n).symm)⟩

end Sys2Proof.Machine
end

section
/-! SUPPORT. Multiply, divide and the `hi`/`lo` moves (45_muldiv.md): the halves of a product, the quotient rounded
toward zero with its remainder, and the two corners of division. -/

namespace Sys2Proof.Machine

/-! ## Moves between a general register and `hi` or `lo` -/

/-- `hi <- h` leaves `lo`, then `next`. -/
theorem proceed_setHi (s : State) (h : Word) : ∃ t, proceed (s.setHi h) = .next t ∧ HiLoWritten s t h s.lo :=
  proceed_setHiLo s h s.lo

/-- `lo <- l` leaves `hi`, then `next`. -/
theorem proceed_setLo (s : State) (l : Word) : ∃ t, proceed (s.setLo l) = .next t ∧ HiLoWritten s t s.hi l :=
  proceed_setHiLo s s.hi l

/-- Settles O36: each of the four is one write, then `next`. -/
theorem hiLoMoves : Obligations.HiLoMoves := fun s rd rs _ _ _ =>
  ⟨⟨readsAs_packR_special (by simp [decodeSpecial]), proceed_writeReg s rd s.hi⟩,
    ⟨readsAs_packR_special (by simp [decodeSpecial]), proceed_writeReg s rd s.lo⟩,
    ⟨readsAs_packR_special (by simp [decodeSpecial]), proceed_setHi s (s.readReg rs)⟩,
    ⟨readsAs_packR_special (by simp [decodeSpecial]), proceed_setLo s (s.readReg rs)⟩⟩

/-! ## Products -/

/-- The halves of the exact signed product give it back (R165, R166). -/
theorem signedProduct_halves (s : State) (rs rt : RegIdx) :
    signed (productHi (signedProduct s rs rt)) * 2 ^ 32 + (productLo (signedProduct s rs rt)).toNat =
      signed (s.readReg rs) * signed (s.readReg rt) :=
  signed_product_halves (signed_mul_fits _ _)

/-- A product of two unsigned words fits 64 bits. -/
theorem unsigned_mul_fits (a b : Word) : (0 : Int) ≤ a.toNat * b.toNat ∧ (a.toNat * b.toNat : Int) < 2 ^ 64 := by
  have h : a.toNat * b.toNat < 2 ^ 32 * 2 ^ 32 := Nat.mul_lt_mul'' a.isLt b.isLt
  exact ⟨by positivity, by exact_mod_cast h⟩

/-- The halves of the exact unsigned product give it back (R165, R167). -/
theorem unsignedProduct_halves (a b : Word) :
    (productHi (a.toNat * b.toNat)).toNat * 2 ^ 32 + (productLo (a.toNat * b.toNat)).toNat = a.toNat * b.toNat := by
  exact_mod_cast unsigned_product_halves (unsigned_mul_fits a b)

/-- An instruction that writes `hi` and `lo` has the two values that its rule asks for. -/
theorem writes_hiLo {i : Instr} {s : State} {h l : Word} {P : Word → Word → Prop}
    (hi : exec i s = proceed (s.setHiLo h l)) (hP : P h l) :
    ∃ t h l, exec i s = .next t ∧ HiLoWritten s t h l ∧ P h l := by
  obtain ⟨t, ht, hwritten⟩ := proceed_setHiLo s h l
  exact ⟨t, h, l, hi.trans ht, hwritten, hP⟩

/-- Settles O31: the halves of each exact product give it back. -/
theorem multiplies : Obligations.Multiplies := fun s rs rt _ _ =>
  ⟨⟨readsAs_packR_special (by simp [decodeSpecial]), writes_hiLo rfl (signedProduct_halves s rs rt)⟩,
    ⟨readsAs_packR_special (by simp [decodeSpecial]), writes_hiLo rfl (unsignedProduct_halves _ _)⟩⟩

/-- The low half of the product is the same for signed and unsigned operands (R167, R168). -/
theorem productLo_signedProduct (s : State) (rs rt : RegIdx) :
    productLo (signedProduct s rs rt) = u32 ((s.readReg rs).toNat * (s.readReg rt).toNat) := by
  apply eq_u32_of_emod
  rw [productLo_toNat, signedProduct, Int.mul_emod, signed_emod, signed_emod]

/-- `hi <- h`, `lo <- l`, `x[rd] <- v`, then `next`. -/
theorem proceed_setHiLo_writeReg (s : State) (h l : Word) (rd : RegIdx) (v : Word) :
    ∃ t, proceed ((s.setHiLo h l).writeReg rd v) = .next t ∧ OneReg s t rd v ∧ t.hi = h ∧ t.lo = l ∧
      SameMem s t ∧ Sequential s t ∧ Quiet s t :=
  ⟨_, rfl, oneReg_writeReg s rd v, rfl, rfl, fun _ => rfl, sequential_advance rfl,
    quiet_advanceTo _ (sameControl_refl s) (sameEnv_refl s) rfl rfl⟩

/-- MUL, by MUL_WRITES_HILO (R168). -/
theorem exec_mul (s : State) (rd rs rt : RegIdx) : exec (.mul rd rs rt) s =
    proceed ((if s.config.mulWritesHiLo then
        s.setHiLo (productHi (signedProduct s rs rt)) (productLo (signedProduct s rs rt)) else s).writeReg rd
      (u32 ((s.readReg rs).toNat * (s.readReg rt).toNat))) := by
  rw [← productLo_signedProduct]
  rfl

/-- Settles O32: by cases on MUL_WRITES_HILO. -/
theorem mulWritesARegister : Obligations.MulWritesARegister := by
  intro s rd rs rt sa
  refine ⟨readsAs_of_decodeFields (by simp [decodeFields, decodeSpecial2]), ?_⟩
  rw [exec_mul]
  cases s.config.mulWritesHiLo with
  | false =>
    obtain ⟨t, ht, hreg, hhilo, hmem, hseq, hquiet⟩ := proceed_writeReg s rd _
    exact ⟨t, ht, hreg, nofun, fun _ => hhilo, hmem, hseq, hquiet⟩
  | true =>
    obtain ⟨t, ht, hreg, hhi, hlo, hmem, hseq, hquiet⟩ := proceed_setHiLo_writeReg s _ _ rd _
    exact ⟨t, ht, hreg, fun _ => by rw [hhi, hlo]; exact signedProduct_halves s rs rt, nofun, hmem, hseq, hquiet⟩

/-! ## Quotient and remainder -/

/-- DIV away from its corners (R169). -/
theorem exec_div {s : State} {rs rt : RegIdx} (hzero : signed (s.readReg rt) ≠ 0)
    (hover : ¬ (signed (s.readReg rs) = -(2 ^ 31) ∧ signed (s.readReg rt) = -1)) :
    exec (.div rs rt) s =
      proceed (s.setHiLo (u32 ((signed (s.readReg rs)).tmod (signed (s.readReg rt))))
        (u32 ((signed (s.readReg rs)).tdiv (signed (s.readReg rt))))) := by
  rw [Int.tmod_def, mul_comm]
  exact (if_neg hzero).trans (if_neg hover)

/-- The remainder is smaller than the divisor (R169). -/
theorem natAbs_tmod_lt (a : Int) {b : Int} (hb : b ≠ 0) : (a.tmod b).natAbs < b.natAbs := by
  rw [Int.natAbs_tmod]
  exact Nat.mod_lt _ (Int.natAbs_pos.mpr hb)

/-- A remainder other than 0 has the sign of the dividend (R169). -/
theorem tmod_eq_zero_or_pos_iff (a b : Int) : a.tmod b = 0 ∨ (0 < a.tmod b ↔ 0 < a) := by
  have hsign := Int.sign_tmod a b
  split at hsign
  · exact .inl (Int.sign_eq_zero_iff_zero.mp hsign)
  · exact .inr (by rw [← Int.sign_eq_one_iff_pos, hsign, Int.sign_eq_one_iff_pos])

/-- A quotient is no larger than its dividend, so of the quotients of words only 2^31 does not fit: that is
-2^31 / -1 (R169). -/
theorem signed_tdiv_fits {a b : Word} (hzero : signed b ≠ 0) (hover : ¬ (signed a = -(2 ^ 31) ∧ signed b = -1)) :
    -(2 ^ 31) ≤ (signed a).tdiv (signed b) ∧ (signed a).tdiv (signed b) ≤ 2 ^ 31 - 1 := by
  have hrange := signed_range a
  have hle := Int.natAbs_tdiv_le_natAbs (signed a) (signed b)
  have hne : (signed a).tdiv (signed b) ≠ 2 ^ 31 := by
    intro hq
    have hdiv := Int.tdiv_mul_add_tmod (signed a) (signed b)
    have hlt := natAbs_tmod_lt (signed a) hzero
    rw [hq] at hdiv
    omega
  omega

/-- The remainder of a word by a nonzero word fits: it is smaller than the divisor (R169). -/
theorem signed_tmod_fits {b : Word} (a : Int) (hzero : signed b ≠ 0) :
    -(2 ^ 31) ≤ a.tmod (signed b) ∧ a.tmod (signed b) ≤ 2 ^ 31 - 1 := by
  have hrange := signed_range b
  have hlt := natAbs_tmod_lt a hzero
  omega

/-- Settles O33: quotient and remainder fit, so `lo` and `hi` hold them exactly. -/
theorem signedDivide : Obligations.SignedDivide := by
  rintro s rs rt rd sa a b rfl rfl hzero hover
  refine ⟨readsAs_packR_special (by simp [decodeSpecial]), writes_hiLo (exec_div hzero hover) ?_⟩
  rw [signed_u32 (signed_tmod_fits _ hzero), signed_u32 (signed_tdiv_fits hzero hover),
    Int.abs_eq_natAbs, Int.abs_eq_natAbs, Nat.cast_lt]
  exact ⟨(Int.tdiv_mul_add_tmod _ _).symm, natAbs_tmod_lt _ hzero, tmod_eq_zero_or_pos_iff _ _⟩

/-- DIVU by a nonzero divisor (R170). -/
theorem exec_divu {s : State} {rs rt : RegIdx} (hzero : s.readReg rt ≠ 0#32) :
    exec (.divu rs rt) s = proceed (s.setHiLo (s.readReg rs % s.readReg rt) (s.readReg rs / s.readReg rt)) := by
  rw [BitVec.udiv_def, BitVec.umod_def]
  exact if_neg fun h => hzero (BitVec.eq_of_toNat_eq h)

/-- Settles O34: a word's quotient and remainder are those of its value. -/
theorem unsignedDivide : Obligations.UnsignedDivide := by
  intro s rs rt rd sa hzero
  refine ⟨readsAs_packR_special (by simp [decodeSpecial]), writes_hiLo (exec_divu hzero) ⟨?_, ?_⟩⟩
  · rw [BitVec.toNat_udiv, BitVec.toNat_umod, Nat.div_add_mod']
  · exact BitVec.umod_lt _ ((BitVec.pos_iff_ne_zero _).mpr hzero)

/-! ## The corners of division -/

/-- A zero divisor is the corner of both divisions (R171). -/
theorem exec_div_zero {s : State} {rs rt : RegIdx} (h : s.readReg rt = 0#32) :
    exec (.div rs rt) s = divideByZero s ∧ exec (.divu rs rt) s = divideByZero s :=
  ⟨if_pos (by rw [h]; rfl), if_pos (by rw [h]; rfl)⟩

/-- -2^31 / -1 is the other corner of DIV (R171). -/
theorem exec_div_overflow {s : State} {rs rt : RegIdx} (hrs : s.readReg rs = 0x80000000#32)
    (hrt : s.readReg rt = 0xFFFFFFFF#32) : exec (.div rs rt) s = divideOverflow s := by
  have hcorner : signed (s.readReg rs) = -(2 ^ 31) ∧ signed (s.readReg rt) = -1 := by
    rw [hrs, hrt]
    decide
  exact (if_neg (by omega)).trans (if_pos hcorner)

/-- Free values in `hi` and `lo`, then `next`. -/
theorem proceed_drawHiLo (s : State) : ∃ t, proceed s.drawHiLo = .next t ∧ OnlyHiLoFree s t :=
  ⟨_, rfl, fun _ => rfl, fun _ => rfl, sequential_advance rfl, sameControl_refl s, ⟨rfl, rfl⟩, rfl, rfl, rfl, rfl⟩

/-- Settles O35: each corner by cases on DIV_CORNER_POLICY. -/
theorem divisionCorners : Obligations.DivisionCorners := by
  intro s rs rt
  refine ⟨fun hzero => ?zero, fun hrs hrt => ?overflow⟩
  case zero =>
    obtain ⟨hdiv, hdivu⟩ := exec_div_zero (rs := rs) hzero
    rw [hdiv, hdivu, divideByZero]
    refine ⟨fun hpolicy => ?_, fun hpolicy => ?_⟩ <;> rw [hpolicy]
    · exact ⟨raiseEngineError_eq _ s, raiseEngineError_eq _ s⟩
    · exact ⟨proceed_drawHiLo s, proceed_drawHiLo s⟩
  case overflow =>
    rw [exec_div_overflow hrs hrt, divideOverflow]
    refine ⟨fun hpolicy => ?_, fun hpolicy => ?_⟩ <;> rw [hpolicy]
    · exact raiseEngineError_eq _ s
    · exact proceed_setHiLo s _ _

end Sys2Proof.Machine
end

section
/-! SUPPORT. System instructions (46_system.md): the services of SYSCALL by their number, what service 8 takes of a
delivery, BREAK, TEQ and the step onto an `Unknown` word. -/

namespace Sys2Proof.Machine

/-! ## The services by number -/

/-- SYSCALL on a known service number (R181). -/
theorem exec_syscall_number {s : State} {n : Word} (h : s.readReg 2#5 = n) : exec .syscall s =
    if n = 1#32 then servicePrintInt s
    else if n = 4#32 then servicePrintString s
    else if n = 5#32 then serviceReadInt s
    else if n = 8#32 then serviceReadString s
    else if n = 10#32 then serviceExit s
    else raiseEngineError (.unknownSyscall n) s := by
  rw [← h]
  rfl

/-- Settles O44: the exit, the zero length and the last case of the table. -/
theorem exitAndUnknownServices : Obligations.ExitAndUnknownServices := by
  intro s
  refine ⟨fun hn => exec_syscall_number hn, fun hn hlen => (exec_syscall_number hn).trans (if_pos hlen), fun hn => ?_⟩
  simp only [List.mem_cons, List.not_mem_nil, or_false, not_or] at hn
  obtain ⟨h1, h4, h5, h8, h10⟩ := hn
  rw [exec_syscall_number rfl, if_neg h1, if_neg h4, if_neg h5, if_neg h8, if_neg h10, raiseEngineError_eq]

/-! ## Printing -/

/-- One output, then `next`. -/
theorem proceed_emit (s : State) (o : EnvOutput) : ∃ t, proceed (s.emit o) = .next t ∧ Printed s t o :=
  ⟨_, rfl, rfl, sequential_advance rfl, fun _ => rfl, ⟨rfl, rfl⟩, fun _ => rfl, sameControl_refl s, ⟨rfl, rfl⟩,
    rfl, rfl, rfl, rfl⟩

/-- A byte that does not wrap, by its address as a number. -/
theorem Memory.getByte_add_ofNat (m : Memory) (a : Word) {k : Nat} (h : a.toNat + k < 2 ^ 32) :
    m.getByte (a + BitVec.ofNat 32 k) = m.read (a.toNat + k) := by
  have hk : (a + BitVec.ofNat 32 k).toNat = a.toNat + k := by
    rw [BitVec.toNat_add, BitVec.toNat_ofNat]
    omega
  rw [Memory.getByte, hk]

/-- The scan finds the bytes before the first zero byte (R184). -/
theorem scanString_eq_some (m : Memory) {bs : List Byte} {fuel a : Nat} (hfuel : bs.length < fuel)
    (hbs : ∀ k (h : k < bs.length), m.read (a + k) = bs[k] ∧ bs[k] ≠ 0#8) (hzero : m.read (a + bs.length) = 0#8) :
    scanString m fuel a = some bs := by
  induction fuel generalizing bs a with
  | zero => exact absurd hfuel (Nat.not_lt_zero _)
  | succ n ih =>
    cases bs with
    | nil => exact if_pos hzero
    | cons b bs =>
      obtain ⟨hb, hne⟩ : m.read a = b ∧ b ≠ 0#8 := hbs 0 (Nat.zero_lt_succ _)
      have hrest : scanString m n (a + 1) = some bs := by
        refine ih (Nat.lt_of_succ_lt_succ hfuel) (fun k hk => ?_) ?_ <;> rw [Nat.add_right_comm]
        · exact hbs (k + 1) (Nat.succ_lt_succ hk)
        · exact hzero
      rw [scanString, hb, if_neg hne, hrest, Option.map_some]

/-- The scan finds nothing when no byte in its reach is 0 (R184). -/
theorem scanString_eq_none (m : Memory) {fuel a : Nat} (h : ∀ k < fuel, m.read (a + k) ≠ 0#8) :
    scanString m fuel a = none := by
  induction fuel generalizing a with
  | zero => rfl
  | succ n ih =>
    have hrest : scanString m n (a + 1) = none := ih fun k hk => by
      rw [Nat.add_right_comm]
      exact h (k + 1) (Nat.succ_lt_succ hk)
    have hne : m.read a ≠ 0#8 := h 0 (Nat.zero_lt_succ n)
    rw [scanString, if_neg hne, hrest, Option.map_none]

theorem servicePrintString_terminated {s : State} {bs : List Byte}
    (h : scanString s.mem (2 ^ 32 - (s.readReg 4#5).toNat) (s.readReg 4#5).toNat = some bs) :
    servicePrintString s = proceed (s.emit (.printString bs)) := by
  simp only [servicePrintString, h]

theorem servicePrintString_unterminated {s : State}
    (h : scanString s.mem (2 ^ 32 - (s.readReg 4#5).toNat) (s.readReg 4#5).toNat = none) :
    servicePrintString s = .next (s.failedWith .unterminatedString) := by
  simp only [servicePrintString, h, raiseEngineError_eq]

/-- Settles O40: service 4 by what its scan finds, up to the top of memory. -/
theorem printServices : Obligations.PrintServices := by
  intro s
  refine ⟨fun hn => ?printInt, fun hn => ?printString⟩
  case printInt =>
    rw [exec_syscall_number hn]
    exact proceed_emit s _
  case printString =>
    have hx : exec .syscall s = servicePrintString s := exec_syscall_number hn
    rw [hx]
    refine ⟨fun bs htop hbs hzero => ?terminated, fun hnz => ?unterminated⟩
    case terminated =>
      rw [servicePrintString_terminated (bs := bs)]
      · exact proceed_emit s _
      refine scanString_eq_some s.mem (by omega) (fun k hk => ?_) ?_
      · rw [← Memory.getByte_add_ofNat s.mem _ (by omega)]
        exact hbs k hk
      · rw [← Memory.getByte_add_ofNat s.mem _ htop]
        exact hzero
    case unterminated =>
      refine servicePrintString_unterminated (scanString_eq_none s.mem fun k hk => ?_)
      rw [← Memory.getByte_add_ofNat s.mem _ (by omega)]
      refine hnz _ ?_
      rw [BitVec.le_def, BitVec.toNat_add, BitVec.toNat_ofNat]
      omega

/-! ## Reading an integer -/

section ReadInt
variable {s : State}

theorem State.drawInt_of_cons {r : Option Word} {rest : List (Option Word)} (h : s.intInputs = r :: rest) :
    s.drawInt = (r, { s with intInputs := rest }) := by
  simp only [State.drawInt, h]

theorem State.drawInt_intInputs_of_nil (h : s.intInputs = []) : s.drawInt.2.intInputs = [] := by
  simp only [State.drawInt, h]

/-- Service 5 on a draw that delivers `v` (R185). -/
theorem integerRead_of_drawInt {v : Word} (hn : s.readReg 2#5 = 5#32) (hv : s.drawInt.1 = some v) :
    IntegerRead s v s.drawInt.2.intInputs := by
  have hx : exec .syscall s = serviceReadInt s := exec_syscall_number hn
  simp only [serviceReadInt, hv] at hx
  refine ⟨_, hx, fun r => ?_, sequential_advance (by simp), ?_⟩
  · rw [State.readReg_advance, State.readReg_writeReg, State.readReg_drawInt]
  · simp [SameHiLo, SameMem, SameControl, WentOn]

/-- Service 5 on a draw that fails (R185). -/
theorem exec_syscall_badInput (hn : s.readReg 2#5 = 5#32) (hv : s.drawInt.1 = none) :
    exec .syscall s = .next (s.failedWith .badInput) := by
  have hx : exec .syscall s = serviceReadInt s := exec_syscall_number hn
  rw [hx, serviceReadInt, hv, raiseEngineError_eq]

end ReadInt

/-- Settles O41: by cases on what the draw delivers. -/
theorem readIntegerService : Obligations.ReadIntegerService := by
  intro s rest hn
  refine ⟨fun v hin => ?fixed, fun hin => ?failed, fun hin => ?free⟩
  case fixed =>
    have h := integerRead_of_drawInt hn (congrArg Prod.fst (State.drawInt_of_cons hin))
    rwa [State.drawInt_of_cons hin] at h
  case failed => exact exec_syscall_badInput hn (congrArg Prod.fst (State.drawInt_of_cons hin))
  case free =>
    cases hv : s.drawInt.1 with
    | none => exact .inr (exec_syscall_badInput hn hv)
    | some v => exact .inl ⟨v, State.drawInt_intInputs_of_nil hin ▸ integerRead_of_drawInt hn hv⟩

/-! ## Reading a string -/

/-- A delivery is taken whole up to its first newline, as far as the bound allows (R186). -/
theorem acceptLine_append (keep : Bool) {a : List Byte} (h : 0x0A#8 ∉ a) (c : List Byte) (max : Nat) :
    acceptLine keep (a ++ c) max = a.take max ++ acceptLine keep c (max - a.length) := by
  induction a generalizing max with
  | nil => simp
  | cons b a ih =>
    rw [List.mem_cons, not_or] at h
    obtain ⟨hb, ha⟩ := h
    cases max with
    | zero => simp [acceptLine]
    | succ n =>
      rw [List.cons_append, acceptLine, if_neg (Ne.symm hb), ih ha, List.take_succ_cons, List.cons_append,
        List.length_cons, Nat.add_sub_add_right]

theorem acceptLine_nil (keep : Bool) (max : Nat) : acceptLine keep [] max = [] := by
  cases max <;> rfl

/-- At a newline the taking ends, with it or without it (R186). -/
theorem acceptLine_newline (keep : Bool) (b : List Byte) (max : Nat) :
    acceptLine keep (0x0A#8 :: b) max = (if keep then [0x0A#8] else []).take max := by
  cases max with
  | zero => rfl
  | succ n => cases keep <;> simp [acceptLine]

/-- Settles O43: what comes before the newline is taken, then the newline ends it. -/
theorem newlineEndsTheString : Obligations.NewlineEndsTheString := by
  intro keep a b max h
  constructor
  · simpa [acceptLine_nil] using acceptLine_append keep h [] max
  · rw [acceptLine_append keep h, acceptLine_newline, List.take_append]

/-- What service 8 takes is a prefix of the delivery (R186): the delivery has a first newline or none. -/
theorem acceptLine_prefix (keep : Bool) (line : List Byte) (max : Nat) : acceptLine keep line max <+: line := by
  by_cases hnl : 0x0A#8 ∈ line
  · obtain ⟨a, b, rfl, ha⟩ := List.eq_append_cons_of_mem hnl
    rw [(newlineEndsTheString keep a b max ha).2]
    refine (List.take_prefix _ _).trans ((List.prefix_append_right_inj a).mpr ?_)
    cases keep with
    | false => exact List.nil_prefix
    | true => exact ⟨b, rfl⟩
  · rw [(newlineEndsTheString keep line [] max hnl).1]
    exact List.take_prefix _ _

section ReadString
variable {s : State}

theorem State.drawLine_of_cons {line : List Byte} {rest : List (List Byte)} (h : s.lineInputs = line :: rest) :
    s.drawLine = (line, { s with lineInputs := rest }) := by
  simp only [State.drawLine, h]

theorem State.drawLine_lineInputs_of_nil (h : s.lineInputs = []) : s.drawLine.2.lineInputs = [] := by
  simp only [State.drawLine, h]

/-- Bytes stored after a delivery is drawn, then `next`: the draw itself changes nothing else that R20 names. -/
theorem proceed_drawLine_setBytes (s : State) (a : Word) (bs : List Byte) (hl : bs.length ≤ 2 ^ 32) :
    ∃ t, proceed (s.drawLine.2.setMem (s.mem.setBytes a bs)) = .next t ∧ BytesStored s t a bs ∧
      Sequential s t ∧ SameRegs s t ∧ SameHiLo s t ∧ SameControl s t ∧ WentOn s t ∧ t.reports = s.reports ∧
      t.outputs = s.outputs ∧ t.intInputs = s.intInputs ∧ t.lineInputs = s.drawLine.2.lineInputs := by
  refine ⟨_, rfl, ⟨fun k h => Memory.getByte_setBytes s.mem a bs k h hl,
    fun b h => Memory.getByte_setBytes_of_not_mem s.mem a b bs h⟩, sequential_advance (by simp), ?_⟩
  simp [SameRegs, SameHiLo, SameControl, WentOn]

/-- Service 8 on the delivery it draws (R186). -/
theorem lineRead_drawLine (hn : s.readReg 2#5 = 8#32) (hlen : s.readReg 5#5 ≠ 0#32) :
    LineRead s s.drawLine.1 s.drawLine.2.lineInputs := by
  rintro bs rfl
  have hx : exec .syscall s = serviceReadString s := exec_syscall_number hn
  simp only [serviceReadString, if_neg hlen] at hx
  refine ⟨acceptLine_length_le _ _ _, acceptLine_prefix _ _ _, fun hfits => ?_, fun hover => ?_⟩
  · rw [hx, if_neg (by omega)]
    refine proceed_drawLine_setBytes s _ _ ?_
    rw [List.length_append, List.length_singleton]
    omega
  · rw [hx, if_pos hover, raiseEngineError_eq]

end ReadString

/-- Settles O42: a fixed and a free delivery are both the one that is drawn. -/
theorem readStringService : Obligations.ReadStringService := by
  intro s hn hlen
  have h := lineRead_drawLine hn hlen
  refine ⟨fun line rest hin => ?_, fun hin => ⟨s.drawLine.1, ?_⟩⟩
  · rwa [State.drawLine_of_cons hin] at h
  · rwa [State.drawLine_lineInputs_of_nil hin] at h

/-! ## BREAK, TEQ and `Unknown` -/

/-- Settles O45: by cases on BREAK_ADVANCES_PC. -/
theorem breakPausesTheRun : Obligations.BreakPausesTheRun := by
  intro s
  have hx : exec .brk s = raiseBreakpoint s := rfl
  rw [hx, raiseBreakpoint]
  cases s.config.breakAdvancesPc with
  | false =>
    exact ⟨_, rfl, rfl, rfl, nofun, fun _ => ⟨rfl, rfl⟩, fun _ => rfl, ⟨rfl, rfl⟩, fun _ => rfl, sameControl_refl s,
      sameEnv_refl s, rfl⟩
  | true =>
    exact ⟨_, rfl, rfl, rfl, fun _ => sequential_advance rfl, nofun, fun _ => rfl, ⟨rfl, rfl⟩, fun _ => rfl,
      sameControl_refl s, sameEnv_refl s, rfl⟩

/-- Settles O46: the trap on one side of the comparison, `next` on the other. -/
theorem trapOnEqualRegisters : Obligations.TrapOnEqualRegisters := by
  intro s rs rt rd sa
  have hx : exec (.teq rs rt) s =
      if s.readReg rs = s.readReg rt then raiseTrap .trapOnEqual s else proceed s := rfl
  refine ⟨readsAs_packR_special (by simp [decodeSpecial]), fun heq => ?_, fun hne => ?_⟩
  · rw [hx, if_pos heq]
    exact raiseTrap_taken .trapOnEqual s
  · rw [hx, if_neg hne]
    exact proceed_only s

/-- Settles O8: the step executes `Unknown`, and a failed state is not re-armed. -/
theorem unknownWordStopsTheRun : Obligations.UnknownWordStopsTheRun := by
  intro s w ha hb hp hd
  have hfits : accessFits s.pc 4 = true := (accessFits_iff s.pc 4).mpr hp
  refine ⟨decode_eq_unknown hd, ?_⟩
  rw [step_active ha, stepActive, if_neg hb, if_pos hfits, State.fetchWord, hd, execDecoded, execUnknown,
    raiseEngineError_eq]
  exact finishStep_failed ⟨_, rfl⟩

end Sys2Proof.Machine
end

section
/-! SUPPORT. Logic, shifts and compares (47_logic_shift_compare.md): the bits of a logic result, a shift as arithmetic,
and the compare results 1 and 0. -/

namespace Sys2Proof.Machine

/-! ## Logic -/

/-- The zero-extended immediate has no bit above bit 15 (30_encoding.md R84). -/
theorem getLsbD_zext16 (imm : Imm16) (n : Nat) :
    (zext16 imm).getLsbD n = (decide (n < 16) && imm.getLsbD n) := by
  rw [zext16, BitVec.getLsbD_setWidth]
  by_cases hn : n < 16
  · simp [hn, (by omega : n < 32)]
  · simp [hn, BitVec.getLsbD_of_ge imm n (Nat.le_of_not_lt hn)]

/-- Inside the word, the complement negates each bit (R199). -/
theorem getLsbD_nor (a b : Word) {n : Nat} (hn : n < 32) :
    (~~~(a ||| b)).getLsbD n = !(a.getLsbD n || b.getLsbD n) := by
  rw [BitVec.getLsbD_not, BitVec.getLsbD_or, decide_eq_true hn, Bool.true_and]

/-- An instruction that writes a word has written the bits that its rule asks for. -/
theorem writes_bits {i : Instr} {s : State} {rd : RegIdx} {v : Word} {bit : Nat → Bool}
    (hi : exec i s = proceed (s.writeReg rd v)) (hbit : ∀ n < 32, v.getLsbD n = bit n) :
    ∃ t v, exec i s = .next t ∧ RegisterWritten s t rd v ∧ ∀ n < 32, v.getLsbD n = bit n := by
  obtain ⟨t, ht, hwritten⟩ := proceed_writeReg s rd v
  exact ⟨t, v, hi.trans ht, hwritten, hbit⟩

/-! ## Shifts as arithmetic -/

theorem shiftLeft_eq_u32 (v : Word) (n : Nat) : v <<< n = u32 (v.toNat * 2 ^ n) := by
  apply eq_u32_of_emod
  rw [BitVec.toNat_shiftLeft, Nat.shiftLeft_eq]
  push_cast
  rfl

theorem ushiftRight_eq_u32 (v : Word) (n : Nat) : v >>> n = u32 (v.toNat / 2 ^ n) := by
  have h : (v >>> n).toNat = v.toNat / 2 ^ n := by rw [BitVec.toNat_ushiftRight, Nat.shiftRight_eq_div_pow]
  exact_mod_cast eq_u32_of_toNat_eq h

/-- The arithmetic shift rounds toward minus infinity (R207). -/
theorem sshiftRight_eq_u32 (v : Word) (n : Nat) : v.sshiftRight n = u32 ((signed v).fdiv (2 ^ n)) := by
  rw [BitVec.sshiftRight_eq, Int.shiftRight_eq_div_pow, Int.fdiv_eq_ediv_of_nonneg _ (by positivity)]
  push_cast
  rfl

/-- The immediate of LUI in the upper half, zeros below it (R203). -/
theorem zext16_shiftLeft_16 (imm : Imm16) : zext16 imm <<< 16 = u32 (imm.toNat * 2 ^ 16) := by
  have h : (zext16 imm).toNat = imm.toNat := BitVec.toNat_setWidth_of_le (by decide)
  rw [shiftLeft_eq_u32, h]

/-- Settles O37: the bits of each word written, and LUI as a shift. -/
theorem logic : Obligations.Logic := by
  intro s rd rs rt x sa imm
  simp only [← getLsbD_zext16, ← zext16_shiftLeft_16]
  exact ⟨⟨readsAs_packR_special (by simp [decodeSpecial]), writes_bits rfl fun _ _ => BitVec.getLsbD_and⟩,
    ⟨readsAs_packR_special (by simp [decodeSpecial]), writes_bits rfl fun _ _ => BitVec.getLsbD_or⟩,
    ⟨readsAs_packR_special (by simp [decodeSpecial]), writes_bits rfl fun _ _ => BitVec.getLsbD_xor⟩,
    ⟨readsAs_packR_special (by simp [decodeSpecial]), writes_bits rfl fun _ hn => getLsbD_nor _ _ hn⟩,
    ⟨readsAs_encode (.andi rt rs imm), writes_bits rfl fun _ _ => BitVec.getLsbD_and⟩,
    ⟨readsAs_encode (.ori rt rs imm), writes_bits rfl fun _ _ => BitVec.getLsbD_or⟩,
    ⟨readsAs_encode (.xori rt rs imm), writes_bits rfl fun _ _ => BitVec.getLsbD_xor⟩,
    ⟨readsAs_of_decodeFields (by simp [decodeFields]), proceed_writeReg s rt _⟩⟩

/-- Settles O38: each of the six writes its shift, which is the arithmetic of its rule. -/
theorem shifts : Obligations.Shifts := by
  intro s rd rs rt sa
  rw [← shiftLeft_eq_u32, ← ushiftRight_eq_u32, ← sshiftRight_eq_u32, ← shiftLeft_eq_u32, ← ushiftRight_eq_u32,
    ← sshiftRight_eq_u32]
  exact ⟨⟨readsAs_packR_special (by simp [decodeSpecial]), proceed_writeReg s rd _⟩,
    ⟨readsAs_packR_special (by simp [decodeSpecial]), proceed_writeReg s rd _⟩,
    ⟨readsAs_packR_special (by simp [decodeSpecial]), proceed_writeReg s rd _⟩,
    ⟨readsAs_packR_special (by simp [decodeSpecial]), proceed_writeReg s rd _⟩,
    ⟨readsAs_packR_special (by simp [decodeSpecial]), proceed_writeReg s rd _⟩,
    ⟨readsAs_packR_special (by simp [decodeSpecial]), proceed_writeReg s rd _⟩⟩

/-! ## Compares -/

/-- An instruction that writes a compare result writes 1 or 0, by the condition of its rule (R211). -/
theorem writes_compare {i : Instr} {s : State} {rd : RegIdx} {p q : Prop} [Decidable p] [Decidable q]
    (hi : exec i s = proceed (s.writeReg rd (boolWord (decide p)))) (hpq : p ↔ q) :
    ∃ t, exec i s = .next t ∧ RegisterWritten s t rd (if q then 1#32 else 0#32) := by
  have hv : boolWord (decide p) = if q then 1#32 else 0#32 := by simp [boolWord, hpq]
  rw [hi, hv]
  exact proceed_writeReg s rd _

/-- Settles O39: the conditions of the immediate forms, with the immediate as an integer. -/
theorem compares : Obligations.Compares := by
  intro s rd rs rt sa imm
  have hsigned : signed (s.readReg rs) < signed (sext16 imm) ↔ signed (s.readReg rs) < imm.toInt := by
    rw [signed_sext16]
  have hunsigned : (s.readReg rs).toNat < (sext16 imm).toNat ↔ (s.readReg rs).toNat < imm.toInt % 2 ^ 32 := by
    rw [← toInt16_emod, Nat.cast_lt]
  exact ⟨⟨readsAs_packR_special (by simp [decodeSpecial]), writes_compare rfl Iff.rfl⟩,
    ⟨readsAs_packR_special (by simp [decodeSpecial]), writes_compare rfl Iff.rfl⟩,
    ⟨readsAs_encode (.slti rt rs imm), writes_compare rfl hsigned⟩,
    ⟨readsAs_encode (.sltiu rt rs imm), writes_compare rfl hunsigned⟩⟩

end Sys2Proof.Machine
end

section
/-! SUPPORT. No instruction reads or writes the breakpoint set or the pending slot (50_step_cycle.md R243): its answer
from a state with the two replaced is its answer from the state itself, with the two replaced. -/

namespace Sys2Proof.Machine

/-- `s` with another breakpoint set and another pending slot. -/
def State.withBreakpoints (s : State) (bs : List Word) (p : Option Word) : State :=
  { s with breakpoints := bs, pendingRearm := p }

/-- Whenever `r` answers a state, `r'` answers that state with `bs` and `p` put in. -/
def AnswersWith (bs : List Word) (p : Option Word) (r r' : Result) : Prop :=
  ∀ t, r = .next t → r' = .next (t.withBreakpoints bs p)

section
variable {bs : List Word} {p : Option Word}

/-! ## What an instruction reads -/

@[simp] theorem State.readReg_withBreakpoints (s : State) (r : RegIdx) :
    (s.withBreakpoints bs p).readReg r = s.readReg r := rfl

@[simp] theorem State.withBreakpoints_mem (s : State) : (s.withBreakpoints bs p).mem = s.mem := rfl

@[simp] theorem State.withBreakpoints_config (s : State) : (s.withBreakpoints bs p).config = s.config := rfl

@[simp] theorem State.drawInt_withBreakpoints (s : State) :
    (s.withBreakpoints bs p).drawInt = (s.drawInt.1, s.drawInt.2.withBreakpoints bs p) := by
  unfold State.drawInt
  cases h : s.intInputs <;> simp [State.withBreakpoints, h]

@[simp] theorem State.drawLine_withBreakpoints (s : State) :
    (s.withBreakpoints bs p).drawLine = (s.drawLine.1, s.drawLine.2.withBreakpoints bs p) := by
  unfold State.drawLine
  cases h : s.lineInputs <;> simp [State.withBreakpoints, h]

/-! ## The ends of an instruction -/

/-- An end that answers a state outright leaves the two alone, whatever else it has written. -/
theorem answersWith_next (u : State) : AnswersWith bs p (.next u) (.next (u.withBreakpoints bs p)) := by
  rintro _ ⟨⟩
  rfl

theorem answersWith_ite {c : Prop} [Decidable c] {a a' b b' : Result} (ha : AnswersWith bs p a a')
    (hb : AnswersWith bs p b b') : AnswersWith bs p (if c then a else b) (if c then a' else b') := by
  split
  · exact ha
  · exact hb

/-- A choice between two ends: taken or not, trapped or not. -/
theorem answersWith_ite_next {c : Prop} [Decidable c] (u v : State) :
    AnswersWith bs p (if c then .next u else .next v)
      (if c then .next (u.withBreakpoints bs p) else .next (v.withBreakpoints bs p)) :=
  answersWith_ite (answersWith_next u) (answersWith_next v)

/-! ## Instructions with branches of their own -/

section
variable (s : State)

theorem answersWith_jr (rs : RegIdx) : AnswersWith bs p (execJr rs s) (execJr rs (s.withBreakpoints bs p)) := by
  simp only [execJr, State.withBreakpoints_config, State.readReg_withBreakpoints]
  cases registerTarget s.config (s.readReg rs) with
  | ok | error => exact answersWith_next _

theorem answersWith_jalr (rd rs : RegIdx) :
    AnswersWith bs p (execJalr rd rs s) (execJalr rd rs (s.withBreakpoints bs p)) := by
  simp only [execJalr, State.withBreakpoints_config, State.readReg_withBreakpoints]
  cases registerTarget s.config (s.readReg rs) with
  | ok | error => exact answersWith_next _

theorem answersWith_mul (rd rs rt : RegIdx) :
    AnswersWith bs p (execMul rd rs rt s) (execMul rd rs rt (s.withBreakpoints bs p)) := by
  cases h : s.config.mulWritesHiLo with
  | false | true =>
    simp only [execMul, State.withBreakpoints_config, h]
    exact answersWith_next _

theorem answersWith_divideByZero : AnswersWith bs p (divideByZero s) (divideByZero (s.withBreakpoints bs p)) := by
  simp only [divideByZero, State.withBreakpoints_config]
  cases s.config.divCorner with
  | engineError | mipsValues => exact answersWith_next _

theorem answersWith_divideOverflow :
    AnswersWith bs p (divideOverflow s) (divideOverflow (s.withBreakpoints bs p)) := by
  simp only [divideOverflow, State.withBreakpoints_config]
  cases s.config.divCorner with
  | engineError | mipsValues => exact answersWith_next _

theorem answersWith_brk : AnswersWith bs p (execBreak s) (execBreak (s.withBreakpoints bs p)) := by
  cases h : s.config.breakAdvancesPc with
  | false | true =>
    simp only [execBreak, raiseBreakpoint, State.withBreakpoints_config, h]
    exact answersWith_next _

theorem answersWith_printString :
    AnswersWith bs p (servicePrintString s) (servicePrintString (s.withBreakpoints bs p)) := by
  simp only [servicePrintString, State.withBreakpoints_mem, State.readReg_withBreakpoints]
  cases scanString s.mem (2 ^ 32 - (s.readReg 4#5).toNat) (s.readReg 4#5).toNat with
  | some | none => exact answersWith_next _

theorem answersWith_readInt : AnswersWith bs p (serviceReadInt s) (serviceReadInt (s.withBreakpoints bs p)) := by
  simp only [serviceReadInt, State.drawInt_withBreakpoints]
  cases s.drawInt.1 with
  | some | none => exact answersWith_next _

theorem answersWith_readString :
    AnswersWith bs p (serviceReadString s) (serviceReadString (s.withBreakpoints bs p)) := by
  simp only [serviceReadString, State.drawLine_withBreakpoints]
  exact answersWith_ite (answersWith_next _) (answersWith_ite_next _ _)

theorem answersWith_syscall : AnswersWith bs p (execSyscall s) (execSyscall (s.withBreakpoints bs p)) :=
  answersWith_ite (answersWith_next _) <|
  answersWith_ite (answersWith_printString s) <|
  answersWith_ite (answersWith_readInt s) <|
  answersWith_ite (answersWith_readString s) <|
  answersWith_ite_next _ _

end

/-- No instruction's answer depends on the breakpoint set or the pending slot. -/
theorem exec_answersWith (i : Instr) (s : State) : AnswersWith bs p (exec i s) (exec i (s.withBreakpoints bs p)) := by
  cases i with
  | addu | addiu | subu | mfhi | mflo | and | or | xor | nor | andi | ori | xori | lui
  | sll | srl | sra | sllv | srlv | srav | slt | sltu | slti | sltiu
  | lb | lbu | lwl | lwr | sb | swl | swr | mult | multu | mthi | mtlo | j | jal => exact answersWith_next _
  | add | addi | sub | lw | lh | lhu | sw | sh | teq
  | beq | bne | blez | bgtz | bltz | bgez | bltzal | bgezal => exact answersWith_ite_next _ _
  | jr rs => exact answersWith_jr s rs
  | jalr rd rs => exact answersWith_jalr s rd rs
  | mul rd rs rt => exact answersWith_mul s rd rs rt
  | div =>
    exact answersWith_ite (answersWith_divideByZero s)
      (answersWith_ite (answersWith_divideOverflow s) (answersWith_next _))
  | divu => exact answersWith_ite (answersWith_divideByZero s) (answersWith_next _)
  | syscall => exact answersWith_syscall s
  | brk => exact answersWith_brk s

end

/-- Settles O53, by cases on the instruction: each end of it answers outright, under a test that reads neither. -/
theorem breakpointsAreInvisible : Obligations.BreakpointsAreInvisible :=
  fun i s t _ _ h => exec_answersWith i s t h

end Sys2Proof.Machine
end

section
/-! SUPPORT. The step cycle (50_step_cycle.md R220 to R231): the execution of what was fetched, the breakpoint stop and
the re-arm, the control transfers as numbers. -/

namespace Sys2Proof.Machine

/-! ## One step -/

theorem State.rearm_of_some {s : State} {a : Word} (h : s.pendingRearm = some a) :
    s.rearm = { s with breakpoints := BreakSet.insert s.breakpoints a, pendingRearm := none } := by
  simp [State.rearm, h]

/-- The step onto an armed breakpoint is the stop (R222). -/
theorem step_of_armed {s : State} (ha : s.Active) (hb : s.pc ∈ s.breakpoints) : step s = .next s.breakpointStop := by
  rw [step_active ha, stepActive, if_pos hb]

/-- Whatever was fetched, its execution answers a state (R220). -/
theorem execDecoded_next (d : Decoded) (s : State) : ∃ u, execDecoded d s = .next u := by
  cases d with
  | instr i =>
    obtain ⟨u, hu, -⟩ := exec_answers i s
    exact ⟨u, hu⟩
  | unknown word => exact ⟨_, rfl⟩

theorem finishStep_next (u : State) : ∃ t, finishStep (.next u) = .next t := by
  by_cases hf : u.HasFailed
  · exact ⟨u, finishStep_failed hf⟩
  · exact ⟨u.rearm, finishStep_rearm hf⟩

/-- A fetch inside memory is a step, whatever word is there. -/
theorem step_of_fits {s : State} (ha : s.Active) (hb : s.pc ∉ s.breakpoints) (hp : s.pc.toNat + 4 ≤ 2 ^ 32) :
    ∃ t, step s = .next t := by
  obtain ⟨u, hu⟩ := execDecoded_next (decode s.config s.fetchWord) s
  rw [step_active ha, stepActive, if_neg hb, if_pos ((accessFits_iff s.pc 4).mpr hp), hu]
  exact finishStep_next u

/-- A fetch past the top of memory is refused (20_memory.md R56; log 12). -/
theorem step_past_top {s : State} (ha : s.Active) (hb : s.pc ∉ s.breakpoints) (hp : s.pc.toNat + 4 > 2 ^ 32) :
    step s = .refused .fetchPastTop := by
  have hf : ¬ accessFits s.pc 4 = true := by rw [accessFits_iff]; omega
  rw [step_active ha, stepActive, if_neg hb, if_neg hf]

/-- Settles O7: the execution, then `rearm` with nothing or an address pending. -/
theorem stepRunsDecodedInstruction : Obligations.StepRunsDecodedInstruction := by
  intro s t i ha hb hp hd hx
  rw [step_of_decode ha hb hp hd hx]
  refine ⟨finishStep_failed, fun hf hr => ?_, fun hf a hr => ?_⟩
  · rw [finishStep_rearm hf, State.rearm_of_none hr]
  · rw [finishStep_rearm hf, State.rearm_of_some hr]

/-- Settles O9: the stop is the whole step. -/
theorem breakpointHitExecutesNothing : Obligations.BreakpointHitExecutesNothing := by
  intro s ha hb
  exact ⟨_, step_of_armed ha hb, BreakSet.mem_erase s.breakpoints s.pc, rfl, rfl, rfl, rfl, fun _ => rfl,
    ⟨rfl, rfl⟩, fun _ => rfl, rfl, rfl, rfl, sameEnv_refl s⟩

/-- A member erased and put back leaves the same members (R222, R223). -/
theorem BreakSet.mem_insert_erase {bs : List Word} {a : Word} (ha : a ∈ bs) (b : Word) :
    b ∈ BreakSet.insert (BreakSet.erase bs a) a ↔ b ∈ bs := by
  rw [BreakSet.mem_insert, BreakSet.mem_erase]
  by_cases hb : b = a <;> simp [hb, ha]

/-- Settles O10: the stop leaves `pc` pending and out of the set, so the next step executes and re-arms it. -/
theorem stepAfterABreakpointStop : Obligations.StepAfterABreakpointStop := by
  intro s t u i ha hb hp hd hstep hx hf
  obtain rfl : s.breakpointStop = t := by simpa [step_of_armed ha hb] using hstep
  obtain ⟨hset, hpend, -⟩ := exec_sameControl hx
  have hout : s.breakpointStop.pc ∉ s.breakpointStop.breakpoints := by simp [BreakSet.mem_erase]
  refine ⟨u.rearm, ?_, ?_⟩
  · rw [step_of_decode (s := s.breakpointStop) (i := i) ha hout hp hd hx, finishStep_rearm hf]
  · rw [State.rearm_of_some hpend, hset]
    exact ⟨rfl, BreakSet.mem_insert_erase hb, rfl, rfl, fun _ => rfl, ⟨rfl, rfl⟩, fun _ => rfl, rfl, rfl, rfl,
      sameEnv_refl u⟩

/-- Settles O12: an aligned `pc` leaves room for the word; otherwise by the fetch's test. -/
theorem activeMachineTakesAStep : Obligations.ActiveMachineTakesAStep := by
  refine ⟨fun s ha hinv hj => ?_, fun s ha hb => ⟨step_of_fits ha hb, step_past_top ha hb⟩⟩
  by_cases hb : s.pc ∈ s.breakpoints
  · exact ⟨_, step_of_armed ha hb⟩
  · obtain ⟨-, -, haligned⟩ := hinv
    obtain ⟨hpc, -⟩ := haligned hj
    have := s.pc.isLt
    exact step_of_fits ha hb (by omega)

/-! ## Control transfers -/

/-- Settles O13: the three targets as arithmetic. -/
theorem controlTransfers : Obligations.ControlTransfers := by
  intro s
  refine ⟨⟨_, rfl, sequential_advance rfl⟩, fun imm => ⟨_, rfl, rfl, add_branchOffset s.npc imm,
    signed_branchOffset imm, ?_, ?_⟩, fun index => ⟨_, rfl, rfl, jumpRegion_toNat s.npc index⟩⟩
  · have := BitVec.le_toInt (x := imm)
    omega
  · have := BitVec.toInt_lt (x := imm)
    omega

/-! ## The breakpoint set at the debug port -/

theorem toggleBreakpoint_breakpoints (s : State) (a : Word) :
    (toggleBreakpoint s a).breakpoints =
      if a ∈ s.breakpoints then BreakSet.erase s.breakpoints a else BreakSet.insert s.breakpoints a := rfl

theorem mem_toggleBreakpoint (s : State) (a b : Word) :
    b ∈ (toggleBreakpoint s a).breakpoints ↔ if b = a then a ∉ s.breakpoints else b ∈ s.breakpoints := by
  rw [toggleBreakpoint_breakpoints]
  split
  · next ha =>
    rw [BreakSet.mem_erase]
    by_cases hb : b = a <;> simp [hb, ha]
  · next ha =>
    rw [BreakSet.mem_insert]
    by_cases hb : b = a <;> simp [hb, ha]

theorem toggleBreakpoint_wf {s : State} (a : Word) (h : BreakSet.wf s.breakpoints = true) :
    BreakSet.wf (toggleBreakpoint s a).breakpoints = true := by
  rw [toggleBreakpoint_breakpoints]
  split
  · exact BreakSet.wf_erase a h
  · exact BreakSet.wf_insert a h

/-- Two toggles leave every membership as it was, so a canonical set is as it was. -/
theorem toggleBreakpoint_twice {s : State} (a : Word) (h : BreakSet.wf s.breakpoints = true) :
    (toggleBreakpoint (toggleBreakpoint s a) a).breakpoints = s.breakpoints := by
  refine BreakSet.ext (toggleBreakpoint_wf a (toggleBreakpoint_wf a h)) h fun b => ?_
  rw [mem_toggleBreakpoint, mem_toggleBreakpoint, mem_toggleBreakpoint]
  by_cases hb : b = a <;> simp [hb]

/-- Settles O59: a toggle writes the set alone, and a canonical set is fixed by its members. -/
theorem breakpointToggle : Obligations.BreakpointToggle := by
  refine fun s a => ⟨mem_toggleBreakpoint s a, rfl, fun h => ?_⟩
  calc toggleBreakpoint (toggleBreakpoint s a) a
      = { s with breakpoints := (toggleBreakpoint (toggleBreakpoint s a) a).breakpoints } := rfl
    _ = s := by rw [toggleBreakpoint_twice a h]

end Sys2Proof.Machine
end

section
/-! SUPPORT. Run control (50_step_cycle.md R231 to R236): what a call of `run` returns, and the run state it leaves. -/

namespace Sys2Proof.Machine

/-! ## The run state a stop leaves -/

/-- The record of an exit or an engine error goes with its run state (50_step_cycle.md R230). A breakpoint stop leaves
the run state to `run`. -/
def State.StopFits (t : State) : Prop :=
  (t.lastStop = some .exit → t.runState = .halted) ∧
  ∀ k, t.lastStop = some (.engineError k) → t.runState = .failed k

theorem Effect.stopFits {i : Instr} {s t : State} (h : Effect i s t) : t.StopFits := by
  cases h with
  | goesOn target hu => exact ⟨nofun, nofun⟩
  | exits => exact ⟨fun _ => rfl, nofun⟩
  | breaks => exact ⟨nofun, nofun⟩
  | fails k =>
    refine ⟨nofun, ?_⟩
    rintro _ ⟨⟩
    rfl

theorem execDecoded_stopFits {d : Decoded} {s t : State} (h : execDecoded d s = .next t) : t.StopFits := by
  cases d with
  | instr i => exact (exec_effect h).stopFits
  | unknown word =>
    cases h
    refine ⟨nofun, ?_⟩
    rintro _ ⟨⟩
    rfl

@[simp] theorem State.rearm_runState (s : State) : s.rearm.runState = s.runState := by
  unfold State.rearm
  split <;> rfl

@[simp] theorem State.rearm_lastStop (s : State) : s.rearm.lastStop = s.lastStop := by
  unfold State.rearm
  split <;> rfl

theorem State.StopFits.rearm {s : State} (h : s.StopFits) : s.rearm.StopFits := by
  simpa [State.StopFits] using h

theorem step_stopFits {s t : State} (h : step s = .next t) : t.StopFits := by
  obtain ⟨-, ⟨-, rfl⟩ | ⟨-, -, u, hu, ⟨-, rfl⟩ | ⟨-, rfl⟩⟩⟩ := step_cases h
  · exact ⟨nofun, nofun⟩
  · exact execDecoded_stopFits hu
  · exact (execDecoded_stopFits hu).rearm

/-! ## A call of `run` -/

theorem run_active {s : State} (h : s.Active) (single : Bool) (fuel : Nat) :
    run single fuel s = runLoop single fuel { s with runState := .running } := by
  rcases h with h | h <;> simp [run, h]

theorem run_halted {s : State} (h : s.runState = .halted) (single : Bool) (fuel : Nat) :
    run single fuel s = .returned .exit s := by
  simp [run, h]

theorem run_failed {s : State} {k : EngineError} (h : s.runState = .failed k) (single : Bool) (fuel : Nat) :
    run single fuel s = .returned (.error k) s := by
  simp [run, h]

/-- Settles O11: each of the two run states by its own arm of `step` and of `run`. -/
theorem noStepWhenHaltedOrFailed : Obligations.NoStepWhenHaltedOrFailed := by
  intro s single fuel
  refine ⟨fun h => ⟨?_, run_halted h single fuel⟩, fun k h => ⟨?_, run_failed h single fuel⟩⟩
  · simp [step, h]
  · simp [step, h]

/-- Settles O57: the first round of the loop, by the stop that its step returned. -/
theorem singleStepCall : Obligations.SingleStepCall := by
  intro s t fuel ha hstep
  rw [run_active ha, runLoop, hstep]
  refine ⟨fun a h => ?_, fun h => ?_, fun k h => ?_, fun h => ?_⟩ <;> simp [h]

/-- What a call returns goes with the run state it leaves (50_step_cycle.md R231, R235). -/
def RunReturn.Fits (single : Bool) (t : State) : RunReturn → Prop
  | .breakpoint _ => t.runState = .paused
  | .completed => t.runState = .paused ∧ single = true
  | .exit => t.runState = .halted
  | .error k => t.runState = .failed k

theorem runLoop_fits {single : Bool} {fuel : Nat} {s t : State} {r : RunReturn}
    (h : runLoop single fuel s = .returned r t) : r.Fits single t := by
  induction fuel generalizing s with
  | zero => cases h
  | succ fuel ih =>
    rw [runLoop] at h
    cases hstep : step s with
    | fault f => simp [hstep] at h
    | refused r => simp [hstep] at h
    | next u =>
      obtain ⟨hexit, herror⟩ := step_stopFits hstep
      rw [hstep] at h
      dsimp only at h
      split at h
      · cases h
        rfl
      · next hu =>
        cases h
        exact hexit hu
      · next k hu =>
        cases h
        exact herror k hu
      · split at h
        · next hs =>
          cases h
          exact ⟨rfl, hs⟩
        · exact ih h

theorem run_fits {single : Bool} {fuel : Nat} {s t : State} {r : RunReturn}
    (h : run single fuel s = .returned r t) : r.Fits single t := by
  cases hs : s.runState with
  | running | paused =>
    rw [run_active (by simp [State.Active, hs])] at h
    exact runLoop_fits h
  | halted =>
    rw [run_halted hs] at h
    cases h
    exact hs
  | failed k =>
    rw [run_failed hs] at h
    cases h
    exact hs

/-- Settles O58, by induction on the fuel, in `runLoop_fits`. -/
theorem runReturnsWithItsRunState : Obligations.RunReturnsWithItsRunState := by
  intro single fuel s t r h
  have hfits := run_fits h
  refine ⟨?_, ?_, ?_, ?_⟩
  · rintro a rfl
    exact hfits
  · rintro rfl
    exact hfits
  · rintro rfl
    exact hfits
  · rintro k rfl
    exact hfits

end Sys2Proof.Machine
end

section
/-! SUPPORT. The outcomes of an instruction (60_exceptions.md R250 to R264): the run state that goes with each, and
the reports, which are the traps of R251 and nothing else. -/

namespace Sys2Proof.Machine

/-! ## The run state of each outcome -/

/-- An update leaves the run state to the way the instruction ends (50_step_cycle.md R230). -/
theorem Update.runState_eq {i : Instr} {s u : State} (hu : Update i s u) : u.runState = s.runState := by
  cases hu with
  | integerRead => simp
  | lineRead => simp
  | _ => rfl

/-- Settles O49: of the four effects only `fails` leaves a failed state where there was an active one. -/
theorem engineErrorChangesNothing : Obligations.EngineErrorChangesNothing := by
  intro i s t k h ha hf
  cases exec_effect h with
  | goesOn target hu =>
    rw [State.advanceTo_runState, hu.runState_eq] at hf
    simp [State.Active, hf] at ha
  | exits | breaks => cases hf
  | fails k' =>
    cases hf
    rfl

/-- Settles O52: `exec_answers` gives a next state, and each of the four effects is one of the outcomes. -/
theorem everyInstructionAnswersAState : Obligations.EveryInstructionAnswersAState := by
  intro i s
  obtain ⟨t, ht, he⟩ := exec_answers i s
  refine ⟨t, ht, ?_⟩
  cases he with
  | goesOn target hu => exact .inl ⟨rfl, hu.runState_eq⟩
  | breaks hi => exact .inr (.inl ⟨rfl, rfl, hi⟩)
  | exits hi hn => exact .inr (.inr (.inl ⟨rfl, rfl, hi, hn⟩))
  | fails k => exact .inr (.inr (.inr ⟨k, rfl, rfl⟩))

/-! ## The table of trap causes -/

/-- The table of 60_exceptions.md R251: the instructions that raise a cause, each with its condition. -/
inductive Traps (s : State) : Instr → TrapCause → Prop where
  | add {rd rs rt : RegIdx} (h : fitsSigned (signed (s.readReg rs) + signed (s.readReg rt)) = false) :
      Traps s (.add rd rs rt) .overflowADD
  | addi {rt rs : RegIdx} {imm : Imm16} (h : fitsSigned (signed (s.readReg rs) + imm.toInt) = false) :
      Traps s (.addi rt rs imm) .overflowADDI
  | sub {rd rs rt : RegIdx} (h : fitsSigned (signed (s.readReg rs) - signed (s.readReg rt)) = false) :
      Traps s (.sub rd rs rt) .overflowSUB
  | lw {rt rs : RegIdx} {imm : Imm16} (h : (effectiveAddress s rs imm).toNat % 4 ≠ 0) :
      Traps s (.lw rt rs imm) .unalignedWord
  | sw {rt rs : RegIdx} {imm : Imm16} (h : (effectiveAddress s rs imm).toNat % 4 ≠ 0) :
      Traps s (.sw rt rs imm) .unalignedWord
  | lh {rt rs : RegIdx} {imm : Imm16} (h : (effectiveAddress s rs imm).toNat % 2 ≠ 0) :
      Traps s (.lh rt rs imm) .unalignedHalf
  | lhu {rt rs : RegIdx} {imm : Imm16} (h : (effectiveAddress s rs imm).toNat % 2 ≠ 0) :
      Traps s (.lhu rt rs imm) .unalignedHalf
  | sh {rt rs : RegIdx} {imm : Imm16} (h : (effectiveAddress s rs imm).toNat % 2 ≠ 0) :
      Traps s (.sh rt rs imm) .unalignedHalf
  | teq {rs rt : RegIdx} (h : s.readReg rs = s.readReg rt) : Traps s (.teq rs rt) .trapOnEqual

section
variable {i : Instr} {s t u : State} {cause : TrapCause}

/-- Under its condition the instruction is the trap, and nothing before it (60_exceptions.md R253). -/
theorem Traps.exec_eq (h : Traps s i cause) : exec i s = raiseTrap cause s := by
  cases h with
  | add h | sub h => exact if_neg (Bool.eq_false_iff.mp h)
  | addi h =>
    rw [exec_addi]
    exact if_neg (Bool.eq_false_iff.mp h)
  | lw h | sw h | lh h | lhu h | sh h => exact if_neg (mt (isAligned_iff _ _).mp h)
  | teq h => exact if_pos h

/-! ## Every other end leaves the reports alone -/

/-- Whatever state `r` answers, the record of reports is as it was in `s`. -/
def LeavesReports (s : State) (r : Result) : Prop := ∀ t, r = .next t → t.reports = s.reports

theorem leavesReports_next (h : u.reports = s.reports) : LeavesReports s (.next u) := by
  rintro _ ⟨⟩
  exact h

theorem leavesReports_ite {p : Prop} [Decidable p] {a b : Result} (ha : LeavesReports s a)
    (hb : LeavesReports s b) : LeavesReports s (if p then a else b) := by
  split
  · exact ha
  · exact hb

theorem leavesReports_jr (rs : RegIdx) : LeavesReports s (execJr rs s) := by
  unfold execJr
  split <;> exact leavesReports_next rfl

theorem leavesReports_jalr (rd rs : RegIdx) : LeavesReports s (execJalr rd rs s) := by
  unfold execJalr
  split <;> exact leavesReports_next rfl

theorem leavesReports_divideByZero : LeavesReports s (divideByZero s) := by
  unfold divideByZero
  split <;> exact leavesReports_next rfl

theorem leavesReports_divideOverflow : LeavesReports s (divideOverflow s) := by
  unfold divideOverflow
  split <;> exact leavesReports_next rfl

theorem leavesReports_printString : LeavesReports s (servicePrintString s) := by
  unfold servicePrintString
  dsimp only
  split <;> exact leavesReports_next rfl

theorem leavesReports_readInt : LeavesReports s (serviceReadInt s) := by
  unfold serviceReadInt
  split
  · exact leavesReports_next (State.drawInt_reports s)
  · exact leavesReports_next rfl

theorem leavesReports_readString : LeavesReports s (serviceReadString s) :=
  leavesReports_ite (leavesReports_next rfl)
    (leavesReports_ite (leavesReports_next rfl) (leavesReports_next (State.drawLine_reports s)))

theorem leavesReports_syscall : LeavesReports s (execSyscall s) :=
  leavesReports_ite (leavesReports_next rfl) <|
  leavesReports_ite leavesReports_printString <|
  leavesReports_ite leavesReports_readInt <|
  leavesReports_ite leavesReports_readString <|
  leavesReports_ite (leavesReports_next rfl) (leavesReports_next rfl)

/-- A test with a trap on one side: on that side the condition of the table must hold. -/
theorem traps_or_leavesReports_ite {p : Prop} [Decidable p] {a b : Result}
    (ha : p → (∃ c, Traps s i c) ∨ LeavesReports s a) (hb : ¬ p → (∃ c, Traps s i c) ∨ LeavesReports s b) :
    (∃ c, Traps s i c) ∨ LeavesReports s (if p then a else b) := by
  split
  · next h => exact ha h
  · next h => exact hb h

/-- An instruction meets a condition of the table, or it reports nothing. -/
theorem traps_or_leavesReports (i : Instr) (s : State) : (∃ c, Traps s i c) ∨ LeavesReports s (exec i s) := by
  have hnext {u : State} (h : u.reports = s.reports) : (∃ c, Traps s i c) ∨ LeavesReports s (.next u) :=
    .inr (leavesReports_next h)
  cases i with
  | add => exact traps_or_leavesReports_ite (fun _ => hnext rfl) fun h => .inl ⟨_, .add (Bool.eq_false_iff.mpr h)⟩
  | sub => exact traps_or_leavesReports_ite (fun _ => hnext rfl) fun h => .inl ⟨_, .sub (Bool.eq_false_iff.mpr h)⟩
  | addi =>
    rw [exec_addi]
    exact traps_or_leavesReports_ite (fun _ => hnext rfl) fun h => .inl ⟨_, .addi (Bool.eq_false_iff.mpr h)⟩
  | lw => exact traps_or_leavesReports_ite (fun _ => hnext rfl) fun h => .inl ⟨_, .lw (mt (isAligned_iff _ 4).mpr h)⟩
  | sw => exact traps_or_leavesReports_ite (fun _ => hnext rfl) fun h => .inl ⟨_, .sw (mt (isAligned_iff _ 4).mpr h)⟩
  | lh => exact traps_or_leavesReports_ite (fun _ => hnext rfl) fun h => .inl ⟨_, .lh (mt (isAligned_iff _ 2).mpr h)⟩
  | lhu => exact traps_or_leavesReports_ite (fun _ => hnext rfl) fun h => .inl ⟨_, .lhu (mt (isAligned_iff _ 2).mpr h)⟩
  | sh => exact traps_or_leavesReports_ite (fun _ => hnext rfl) fun h => .inl ⟨_, .sh (mt (isAligned_iff _ 2).mpr h)⟩
  | teq => exact traps_or_leavesReports_ite (fun h => .inl ⟨_, .teq h⟩) fun _ => hnext rfl
  | beq | bne | blez | bgtz | bltz | bgez | bltzal | bgezal =>
    exact .inr (leavesReports_ite (leavesReports_next rfl) (leavesReports_next rfl))
  | jr rs => exact .inr (leavesReports_jr rs)
  | jalr rd rs => exact .inr (leavesReports_jalr rd rs)
  | mul =>
    refine hnext ?_
    split <;> rfl
  | div =>
    exact .inr (leavesReports_ite leavesReports_divideByZero
      (leavesReports_ite leavesReports_divideOverflow (leavesReports_next rfl)))
  | divu => exact .inr (leavesReports_ite leavesReports_divideByZero (leavesReports_next rfl))
  | syscall => exact .inr leavesReports_syscall
  | brk =>
    refine hnext ?_
    split <;> rfl
  | addu | addiu | subu | mfhi | mflo | and | or | xor | nor | andi | ori | xori | lui
  | sll | srl | sra | sllv | srlv | srav | slt | sltu | slti | sltiu
  | lb | lbu | lwl | lwr | sb | swl | swr | mult | multu | mthi | mtlo | j | jal =>
    exact hnext rfl

/-! ## Traps and reports -/

/-- A trap adds one report, so it is not the absence of one, and it has one cause. -/
theorem TrapTaken.reports_ne (h : TrapTaken s t cause) : t.reports ≠ s.reports := by
  simp [h.1]

theorem TrapTaken.cause_unique {c : TrapCause} (h : TrapTaken s t cause) (h' : TrapTaken s t c) : cause = c := by
  have hr := h.1.symm.trans h'.1
  simpa using hr

theorem Traps.trapTaken (h : Traps s i cause) (hx : exec i s = .next t) : TrapTaken s t cause := by
  obtain ⟨u, hu, htrap⟩ := raiseTrap_taken cause s
  rw [h.exec_eq, hu] at hx
  cases hx
  exact htrap

/-- The traps an instruction takes are those of the table (60_exceptions.md R251). -/
theorem trapTaken_iff_traps (hx : exec i s = .next t) : TrapTaken s t cause ↔ Traps s i cause := by
  refine ⟨fun htaken => ?_, fun h => h.trapTaken hx⟩
  obtain ⟨c, hc⟩ | hleaves := traps_or_leavesReports i s
  · rwa [htaken.cause_unique (hc.trapTaken hx)]
  · exact absurd (hleaves t hx) htaken.reports_ne

end

/-- Settles O50: an instruction that meets a condition of the table is that trap, and any other reports nothing. -/
theorem trapsAreReportedNoOps : Obligations.TrapsAreReportedNoOps := by
  intro i s t hx
  refine ⟨?_, fun cause => (trapTaken_iff_traps hx).trans ⟨fun h => ?_, fun h => ?_⟩⟩
  · obtain ⟨c, hc⟩ | hleaves := traps_or_leavesReports i s
    · exact .inr ⟨c, hc.trapTaken hx⟩
    · exact .inl (hleaves t hx)
  · cases h with
    | _ h => simpa using h
  · rcases h with ⟨rfl, _, _, _, rfl, h⟩ | ⟨rfl, _, _, _, rfl, h⟩ | ⟨rfl, _, _, _, rfl, h⟩ |
      ⟨rfl, _, _, _, rfl | rfl, h⟩ | ⟨rfl, _, _, _, rfl | rfl | rfl, h⟩ | ⟨rfl, _, _, rfl, h⟩
    · exact .add h
    · exact .addi h
    · exact .sub h
    · exact .lw h
    · exact .sw h
    · exact .lh h
    · exact .lhu h
    · exact .sh h
    · exact .teq h

end Sys2Proof.Machine
end

section
/-! SUPPORT. The checks of the reset port (70_reset_and_hazards.md R281, R283). -/

namespace Sys2Proof.Machine

theorem Segment.fits_iff (g : Segment) :
    g.fits = true ↔ (g.kind = 1 → g.addr.toNat + g.bytes.length ≤ 2 ^ 32) := by
  rw [← accessFits_iff]
  simp [Segment.fits, ptLoad, Decidable.imp_iff_not_or]

/-- A file of the right type and machine is judged by its segments alone. -/
theorem resetPort_of_executable {elf : ElfInput} (ht : elf.elfType = 2) (hm : elf.machine = 8) (s : State) :
    resetPort elf s =
      if elf.segments.all Segment.fits then .ok (s.afterReset elf) else .error .segmentOverflow := by
  simp [resetPort, etExec, emMips, ht, hm]

/-- Settles O55: the three tests of `resetPort` in their order. -/
theorem resetChecks : Obligations.ResetChecks := by
  intro elf s
  refine ⟨fun ht => if_pos ht, fun ht hm => ?_, fun ht hm hover => ?_, fun ht hm hfits => ?_⟩
  · exact (if_neg (not_not_intro ht)).trans (if_pos hm)
  · obtain ⟨g, hg, hk, hlen⟩ := hover
    rw [resetPort_of_executable ht hm, if_neg]
    intro hall
    have := g.fits_iff.mp (List.all_eq_true.mp hall g hg) hk
    omega
  · rw [resetPort_of_executable ht hm, if_pos]
    · exact ⟨_, rfl⟩
    · exact List.all_eq_true.mpr fun g hg => g.fits_iff.mpr (hfits g hg)

end Sys2Proof.Machine
end
